-- ==== Sys2Proof/Word.lean ====
section
/-! DEFINITION. Words and bytes (00_scope.md R6 to R9). -/

namespace Sys2Proof

/-- A register, instruction word, address or ALU operand (R7). Its readings `as_unsigned` and
`as_signed` are `BitVec.toNat` and `BitVec.toInt`; `+` and `-` wrap modulo 2^32. -/
abbrev Word := BitVec 32

/-- A byte of memory or of the console's output (20_memory.md R50, 10_state.md R32). -/
abbrev Byte := BitVec 8

/-- A general register's index, 0 to 31 (10_state.md R21, 30_encoding.md R91). -/
abbrev RegIdx := Fin 32

end Sys2Proof
end

