-- ==== Sys2Proof/Syntax.lean ====
section
/-! DEFINITION. The instructions: one constructor for each row of spec/opcode_table.json
(30_encoding.md R121). Operands are the encoded fields of R91 to R101, as numbers and bit fields. -/

namespace Sys2Proof

/-- An instruction of the unit. Operands stand in the order of the rules' lists: rd, rs1, rs2,
then the immediate; `rs1` is the base of a load or store and `rs2` what a store stores.

* `imm`, `off` of classes I, I-Load, S and I-Jalr: the 12 encoded bits, signed (R97, R98).
* `off` of a branch: the 13-bit offset of R99, whose bit 0 is 0 in a well-formed instruction.
* `off` of `jal`: the 21-bit offset of R101, whose bit 0 is 0 in a well-formed instruction.
* `imm` of `lui` and `auipc`: bits 31:12 (R100).
* `shamt`: the 5-bit shift amount (R107).
* `hi` and `lo` of `fence`: the ignored bits 31:15 and 11:7 (R112), kept so that no bit of a word is
  lost in decoding (log entry 9). -/
inductive Instr where
  | add (rd rs1 rs2 : RegIdx)
  | sub (rd rs1 rs2 : RegIdx)
  | sll (rd rs1 rs2 : RegIdx)
  | slt (rd rs1 rs2 : RegIdx)
  | sltu (rd rs1 rs2 : RegIdx)
  | xor (rd rs1 rs2 : RegIdx)
  | srl (rd rs1 rs2 : RegIdx)
  | sra (rd rs1 rs2 : RegIdx)
  | or (rd rs1 rs2 : RegIdx)
  | and (rd rs1 rs2 : RegIdx)
  | addi (rd rs1 : RegIdx) (imm : BitVec 12)
  | slti (rd rs1 : RegIdx) (imm : BitVec 12)
  | sltiu (rd rs1 : RegIdx) (imm : BitVec 12)
  | xori (rd rs1 : RegIdx) (imm : BitVec 12)
  | ori (rd rs1 : RegIdx) (imm : BitVec 12)
  | andi (rd rs1 : RegIdx) (imm : BitVec 12)
  | slli (rd rs1 : RegIdx) (shamt : BitVec 5)
  | srli (rd rs1 : RegIdx) (shamt : BitVec 5)
  | srai (rd rs1 : RegIdx) (shamt : BitVec 5)
  | lui (rd : RegIdx) (imm : BitVec 20)
  | auipc (rd : RegIdx) (imm : BitVec 20)
  | jal (rd : RegIdx) (off : BitVec 21)
  | jalr (rd rs1 : RegIdx) (off : BitVec 12)
  | beq (rs1 rs2 : RegIdx) (off : BitVec 13)
  | bne (rs1 rs2 : RegIdx) (off : BitVec 13)
  | blt (rs1 rs2 : RegIdx) (off : BitVec 13)
  | bge (rs1 rs2 : RegIdx) (off : BitVec 13)
  | bltu (rs1 rs2 : RegIdx) (off : BitVec 13)
  | bgeu (rs1 rs2 : RegIdx) (off : BitVec 13)
  | lb (rd rs1 : RegIdx) (off : BitVec 12)
  | lh (rd rs1 : RegIdx) (off : BitVec 12)
  | lw (rd rs1 : RegIdx) (off : BitVec 12)
  | lbu (rd rs1 : RegIdx) (off : BitVec 12)
  | lhu (rd rs1 : RegIdx) (off : BitVec 12)
  | sb (rs1 rs2 : RegIdx) (off : BitVec 12)
  | sh (rs1 rs2 : RegIdx) (off : BitVec 12)
  | sw (rs1 rs2 : RegIdx) (off : BitVec 12)
  | fence (hi : BitVec 17) (lo : BitVec 5)
  | ecall
  | ebreak
deriving DecidableEq, Repr

end Sys2Proof
end

