-- ==== Sys2Proof/Decode.lean ====
section
/-! DEFINITION. The instruction-word field extractor, the immediate decoder, the decoder from words
to instructions, and the encoder (30_encoding.md; 40_datapath_units.md R130, R131).

The decoder here reads all 40 rows of the opcode table. That the four set-less-than rows exist only
under `P_SLT` = present is checked where a state is at hand, by their meanings and by the bundle
decoder of Machine/Control.lean (log entry 10). -/

namespace Sys2Proof

/-! ## The field extractor -/

/-- `w[6:0]` (R91). -/
def opcodeField (w : Word) : BitVec 7 := w.extractLsb' 0 7
/-- `w[11:7]` (R91). -/
def rdField (w : Word) : RegIdx := (w.extractLsb' 7 5).toFin
/-- `w[14:12]` (R91). -/
def funct3Field (w : Word) : BitVec 3 := w.extractLsb' 12 3
/-- `w[19:15]` (R91). -/
def rs1Field (w : Word) : RegIdx := (w.extractLsb' 15 5).toFin
/-- `w[24:20]` (R91). -/
def rs2Field (w : Word) : RegIdx := (w.extractLsb' 20 5).toFin
/-- `w[31:25]` (R91). -/
def funct7Field (w : Word) : BitVec 7 := w.extractLsb' 25 7
/-- `w[31:20]`, the accessor that no instruction uses (R92). -/
def csrField (w : Word) : BitVec 12 := w.extractLsb' 20 12

/-- Which end of the word index 0 of the byte and halfword accessors names: the spec leaves it open
and asks for a parameter (91_not_in_source.md N9). -/
inductive ByteIndexOrder where
  | leastFirst | mostFirst
deriving DecidableEq, Repr

/-- The accessor `get_byte`; `none` is its `InvalidArgument` (R92). No instruction uses it. -/
def getByte (o : ByteIndexOrder) (w : Word) (i : Nat) : Option (BitVec 8) :=
  if i < 4 then
    match o with
    | .leastFirst => some (w.extractLsb' (8 * i) 8)
    | .mostFirst => some (w.extractLsb' (8 * (3 - i)) 8)
  else none

/-- The accessor `get_half_word`; `none` is its `InvalidArgument` (R92). No instruction uses it. -/
def getHalfWord (o : ByteIndexOrder) (w : Word) (i : Nat) : Option (BitVec 16) :=
  if i < 2 then
    match o with
    | .leastFirst => some (w.extractLsb' (16 * i) 16)
    | .mostFirst => some (w.extractLsb' (16 * (1 - i)) 16)
  else none

/-- The eleven opcode classes (R94). -/
inductive OpClass where
  | r | i | iLoad | s | b | uLui | uAuipc | jJal | iJalr | fence | e
deriving DecidableEq, Repr

/-- The opcode classifier; `none` is "unrecognized" (R94, R95). -/
def classify (op : BitVec 7) : Option OpClass :=
  if op = 0b0110011#7 then some .r
  else if op = 0b0010011#7 then some .i
  else if op = 0b0000011#7 then some .iLoad
  else if op = 0b0100011#7 then some .s
  else if op = 0b1100011#7 then some .b
  else if op = 0b0110111#7 then some .uLui
  else if op = 0b0010111#7 then some .uAuipc
  else if op = 0b1101111#7 then some .jJal
  else if op = 0b1100111#7 then some .iJalr
  else if op = 0b0001111#7 then some .fence
  else if op = 0b1110011#7 then some .e
  else none

/-- Which fields a class defines (R96). -/
structure ClassFields where
  rd : Bool
  rs1 : Bool
  rs2 : Bool
  funct3 : Bool
  funct7 : Bool
deriving DecidableEq, Repr

/-- The table of R96. -/
def OpClass.fields : OpClass → ClassFields
  | .r => ⟨true, true, true, true, true⟩
  | .i => ⟨true, true, false, true, false⟩
  | .iLoad => ⟨true, true, false, true, false⟩
  | .s => ⟨false, true, true, true, false⟩
  | .b => ⟨false, true, true, true, false⟩
  | .uLui => ⟨true, false, false, false, false⟩
  | .uAuipc => ⟨true, false, false, false, false⟩
  | .jJal => ⟨true, false, false, false, false⟩
  | .iJalr => ⟨true, true, false, true, false⟩
  | .fence => ⟨false, false, false, true, false⟩
  | .e => ⟨false, false, false, true, false⟩

/-- The extractor's outputs for a recognized class; a field the class lacks is `none` (R130). -/
structure Fields where
  cls : OpClass
  rd : Option RegIdx
  rs1 : Option RegIdx
  rs2 : Option RegIdx
  funct3 : Option (BitVec 3)
  funct7 : Option (BitVec 7)
deriving DecidableEq, Repr

/-- The field extractor as a block (R130); `none` when the opcode is unrecognized. -/
def extractFields (w : Word) : Option Fields :=
  match classify (opcodeField w) with
  | none => none
  | some c => some
    { cls := c
      rd := if c.fields.rd then some (rdField w) else none
      rs1 := if c.fields.rs1 then some (rs1Field w) else none
      rs2 := if c.fields.rs2 then some (rs2Field w) else none
      funct3 := if c.fields.funct3 then some (funct3Field w) else none
      funct7 := if c.fields.funct7 then some (funct7Field w) else none }

/-! ## The immediate decoder -/

/-- The encoded I-immediate, `w[31:20]` (R97). -/
def rawI (w : Word) : BitVec 12 := w.extractLsb' 20 12
/-- The encoded S-immediate, `w[31:25]` above `w[11:7]` (R98). -/
def rawS (w : Word) : BitVec 12 := w.extractLsb' 25 7 ++ w.extractLsb' 7 5
/-- The 13-bit branch offset with its implicit bit 0 (R99). -/
def rawB (w : Word) : BitVec 13 :=
  w.extractLsb' 31 1 ++ w.extractLsb' 7 1 ++ w.extractLsb' 25 6 ++ w.extractLsb' 8 4 ++ 0#1
/-- The encoded U-immediate, `w[31:12]` (R100). -/
def rawU (w : Word) : BitVec 20 := w.extractLsb' 12 20
/-- The 21-bit jump offset with its implicit bit 0 (R101). -/
def rawJ (w : Word) : BitVec 21 :=
  w.extractLsb' 31 1 ++ w.extractLsb' 12 8 ++ w.extractLsb' 20 1 ++ w.extractLsb' 21 10 ++ 0#1

/-- `imm_I(w)` (R97). -/
def immI (w : Word) : Word := (rawI w).signExtend 32
/-- `imm_S(w)` (R98). -/
def immS (w : Word) : Word := (rawS w).signExtend 32
/-- `imm_B(w)` (R99). -/
def immB (w : Word) : Word := (rawB w).signExtend 32
/-- `imm_U(w)` (R100): the U-immediate is left in place above 12 zeros. -/
def immU (w : Word) : Word := rawU w ++ 0#12
/-- `imm_J(w)` (R101). -/
def immJ (w : Word) : Word := (rawJ w).signExtend 32

/-- The immediate decoder as a block (R131); `none` for the classes without an immediate (R103). -/
def decodeImmediate (c : OpClass) (w : Word) : Option Word :=
  match c with
  | .i | .iLoad | .iJalr => some (immI w)
  | .s => some (immS w)
  | .b => some (immB w)
  | .uLui | .uAuipc => some (immU w)
  | .jJal => some (immJ w)
  | .r | .fence | .e => none

/-! ## The decoder -/

/-- Class R (R104). -/
def decodeR (w : Word) : Option Instr :=
  let rd := rdField w
  let rs1 := rs1Field w
  let rs2 := rs2Field w
  let f3 := funct3Field w
  let f7 := funct7Field w
  if f3 = 0b000#3 then
    if f7 = 0b0000000#7 then some (.add rd rs1 rs2)
    else if f7 = 0b0100000#7 then some (.sub rd rs1 rs2) else none
  else if f3 = 0b001#3 then if f7 = 0b0000000#7 then some (.sll rd rs1 rs2) else none
  else if f3 = 0b010#3 then if f7 = 0b0000000#7 then some (.slt rd rs1 rs2) else none
  else if f3 = 0b011#3 then if f7 = 0b0000000#7 then some (.sltu rd rs1 rs2) else none
  else if f3 = 0b100#3 then if f7 = 0b0000000#7 then some (.xor rd rs1 rs2) else none
  else if f3 = 0b101#3 then
    if f7 = 0b0000000#7 then some (.srl rd rs1 rs2)
    else if f7 = 0b0100000#7 then some (.sra rd rs1 rs2) else none
  else if f3 = 0b110#3 then if f7 = 0b0000000#7 then some (.or rd rs1 rs2) else none
  else if f7 = 0b0000000#7 then some (.and rd rs1 rs2) else none

/-- Class I (R105 to R107). -/
def decodeI (w : Word) : Option Instr :=
  let rd := rdField w
  let rs1 := rs1Field w
  let imm := rawI w
  let shamt := w.extractLsb' 20 5
  let f3 := funct3Field w
  let top := w.extractLsb' 25 7
  if f3 = 0b000#3 then some (.addi rd rs1 imm)
  else if f3 = 0b001#3 then if top = 0b0000000#7 then some (.slli rd rs1 shamt) else none
  else if f3 = 0b010#3 then some (.slti rd rs1 imm)
  else if f3 = 0b011#3 then some (.sltiu rd rs1 imm)
  else if f3 = 0b100#3 then some (.xori rd rs1 imm)
  else if f3 = 0b101#3 then
    if top = 0b0000000#7 then some (.srli rd rs1 shamt)
    else if top = 0b0100000#7 then some (.srai rd rs1 shamt) else none
  else if f3 = 0b110#3 then some (.ori rd rs1 imm)
  else some (.andi rd rs1 imm)

/-- Class I-Load (R108). -/
def decodeLoad (w : Word) : Option Instr :=
  let rd := rdField w
  let rs1 := rs1Field w
  let off := rawI w
  let f3 := funct3Field w
  if f3 = 0b000#3 then some (.lb rd rs1 off)
  else if f3 = 0b001#3 then some (.lh rd rs1 off)
  else if f3 = 0b010#3 then some (.lw rd rs1 off)
  else if f3 = 0b100#3 then some (.lbu rd rs1 off)
  else if f3 = 0b101#3 then some (.lhu rd rs1 off)
  else none

/-- Class S (R109). -/
def decodeStore (w : Word) : Option Instr :=
  let rs1 := rs1Field w
  let rs2 := rs2Field w
  let off := rawS w
  let f3 := funct3Field w
  if f3 = 0b000#3 then some (.sb rs1 rs2 off)
  else if f3 = 0b001#3 then some (.sh rs1 rs2 off)
  else if f3 = 0b010#3 then some (.sw rs1 rs2 off)
  else none

/-- Class B (R110). -/
def decodeBranch (w : Word) : Option Instr :=
  let rs1 := rs1Field w
  let rs2 := rs2Field w
  let off := rawB w
  let f3 := funct3Field w
  if f3 = 0b000#3 then some (.beq rs1 rs2 off)
  else if f3 = 0b001#3 then some (.bne rs1 rs2 off)
  else if f3 = 0b100#3 then some (.blt rs1 rs2 off)
  else if f3 = 0b101#3 then some (.bge rs1 rs2 off)
  else if f3 = 0b110#3 then some (.bltu rs1 rs2 off)
  else if f3 = 0b111#3 then some (.bgeu rs1 rs2 off)
  else none

/-- Class E: exactly two words (R113). -/
def decodeSystem (w : Word) : Option Instr :=
  if w = 0x00000073#32 then some .ecall
  else if w = 0x00100073#32 then some .ebreak
  else none

/-- The decoder, in the order of R114; `none` is `InvalidArgument` (R95, R104 to R115). -/
def decode (w : Word) : Option Instr :=
  match classify (opcodeField w) with
  | none => none
  | some .r => decodeR w
  | some .i => decodeI w
  | some .iLoad => decodeLoad w
  | some .s => decodeStore w
  | some .b => decodeBranch w
  | some .uLui => some (.lui (rdField w) (rawU w))
  | some .uAuipc => some (.auipc (rdField w) (rawU w))
  | some .jJal => some (.jal (rdField w) (rawJ w))
  | some .iJalr =>
    if funct3Field w = 0b000#3 then some (.jalr (rdField w) (rs1Field w) (rawI w)) else none
  | some .fence =>
    if funct3Field w = 0b000#3 then some (.fence (w.extractLsb' 15 17) (w.extractLsb' 7 5)) else none
  | some .e => decodeSystem w

/-- The word that four bytes spell, the first the least significant (20_memory.md R53, R90). -/
def wordOfBytes (b0 b1 b2 b3 : Byte) : Word := b3 ++ b2 ++ b1 ++ b0

/-- Decoding a stream of bytes: the instruction of the first four bytes, and the rest. There is no
other instruction length (R90, R118), so fewer than four bytes spell nothing. -/
def decodeBytes : List Byte → Option (Instr × List Byte)
  | b0 :: b1 :: b2 :: b3 :: rest => (decode (wordOfBytes b0 b1 b2 b3)).map fun i => (i, rest)
  | _ => none

/-- Byte `k` of the instruction whose bits the opcode table numbers `w`, with the bits from `nbits`
on zero. -/
def tableByte (nbits w k : Nat) : Byte := BitVec.ofNat 8 (w % 2 ^ nbits / 2 ^ (8 * k))

/-- What the decoder reads from the instruction whose bits the opcode table numbers `w`, laid out in
memory order (R53). -/
def decodeTableWord (nbits w : Nat) : Option Instr :=
  (decodeBytes ((List.range 4).map (tableByte nbits w))).map Prod.fst

/-! ## The encoder -/

/-- A register's 5-bit field (R91). -/
def regBits (r : RegIdx) : BitVec 5 := BitVec.ofFin r

/-- The R format (R93). -/
def formR (f7 : BitVec 7) (rs2 rs1 : RegIdx) (f3 : BitVec 3) (rd : RegIdx) (op : BitVec 7) : Word :=
  f7 ++ regBits rs2 ++ regBits rs1 ++ f3 ++ regBits rd ++ op
/-- The I format (R93, R97). -/
def formI (imm : BitVec 12) (rs1 : RegIdx) (f3 : BitVec 3) (rd : RegIdx) (op : BitVec 7) : Word :=
  imm ++ regBits rs1 ++ f3 ++ regBits rd ++ op
/-- The S format (R93, R98). -/
def formS (imm : BitVec 12) (rs2 rs1 : RegIdx) (f3 : BitVec 3) (op : BitVec 7) : Word :=
  imm.extractLsb' 5 7 ++ regBits rs2 ++ regBits rs1 ++ f3 ++ imm.extractLsb' 0 5 ++ op
/-- The B format (R93, R99). -/
def formB (off : BitVec 13) (rs2 rs1 : RegIdx) (f3 : BitVec 3) (op : BitVec 7) : Word :=
  off.extractLsb' 12 1 ++ off.extractLsb' 5 6 ++ regBits rs2 ++ regBits rs1 ++ f3
    ++ off.extractLsb' 1 4 ++ off.extractLsb' 11 1 ++ op
/-- The U format (R93, R100). -/
def formU (imm : BitVec 20) (rd : RegIdx) (op : BitVec 7) : Word := imm ++ regBits rd ++ op
/-- The J format (R93, R101). -/
def formJ (off : BitVec 21) (rd : RegIdx) (op : BitVec 7) : Word :=
  off.extractLsb' 20 1 ++ off.extractLsb' 1 10 ++ off.extractLsb' 11 1 ++ off.extractLsb' 12 8
    ++ regBits rd ++ op

/-- The word of a well-formed instruction, from R93 and the function fields of R94 to R113. -/
def encode : Instr → Word
  | .add rd rs1 rs2 => formR 0b0000000#7 rs2 rs1 0b000#3 rd 0b0110011#7
  | .sub rd rs1 rs2 => formR 0b0100000#7 rs2 rs1 0b000#3 rd 0b0110011#7
  | .sll rd rs1 rs2 => formR 0b0000000#7 rs2 rs1 0b001#3 rd 0b0110011#7
  | .slt rd rs1 rs2 => formR 0b0000000#7 rs2 rs1 0b010#3 rd 0b0110011#7
  | .sltu rd rs1 rs2 => formR 0b0000000#7 rs2 rs1 0b011#3 rd 0b0110011#7
  | .xor rd rs1 rs2 => formR 0b0000000#7 rs2 rs1 0b100#3 rd 0b0110011#7
  | .srl rd rs1 rs2 => formR 0b0000000#7 rs2 rs1 0b101#3 rd 0b0110011#7
  | .sra rd rs1 rs2 => formR 0b0100000#7 rs2 rs1 0b101#3 rd 0b0110011#7
  | .or rd rs1 rs2 => formR 0b0000000#7 rs2 rs1 0b110#3 rd 0b0110011#7
  | .and rd rs1 rs2 => formR 0b0000000#7 rs2 rs1 0b111#3 rd 0b0110011#7
  | .addi rd rs1 imm => formI imm rs1 0b000#3 rd 0b0010011#7
  | .slti rd rs1 imm => formI imm rs1 0b010#3 rd 0b0010011#7
  | .sltiu rd rs1 imm => formI imm rs1 0b011#3 rd 0b0010011#7
  | .xori rd rs1 imm => formI imm rs1 0b100#3 rd 0b0010011#7
  | .ori rd rs1 imm => formI imm rs1 0b110#3 rd 0b0010011#7
  | .andi rd rs1 imm => formI imm rs1 0b111#3 rd 0b0010011#7
  | .slli rd rs1 shamt => formI (0b0000000#7 ++ shamt) rs1 0b001#3 rd 0b0010011#7
  | .srli rd rs1 shamt => formI (0b0000000#7 ++ shamt) rs1 0b101#3 rd 0b0010011#7
  | .srai rd rs1 shamt => formI (0b0100000#7 ++ shamt) rs1 0b101#3 rd 0b0010011#7
  | .lui rd imm => formU imm rd 0b0110111#7
  | .auipc rd imm => formU imm rd 0b0010111#7
  | .jal rd off => formJ off rd 0b1101111#7
  | .jalr rd rs1 off => formI off rs1 0b000#3 rd 0b1100111#7
  | .beq rs1 rs2 off => formB off rs2 rs1 0b000#3 0b1100011#7
  | .bne rs1 rs2 off => formB off rs2 rs1 0b001#3 0b1100011#7
  | .blt rs1 rs2 off => formB off rs2 rs1 0b100#3 0b1100011#7
  | .bge rs1 rs2 off => formB off rs2 rs1 0b101#3 0b1100011#7
  | .bltu rs1 rs2 off => formB off rs2 rs1 0b110#3 0b1100011#7
  | .bgeu rs1 rs2 off => formB off rs2 rs1 0b111#3 0b1100011#7
  | .lb rd rs1 off => formI off rs1 0b000#3 rd 0b0000011#7
  | .lh rd rs1 off => formI off rs1 0b001#3 rd 0b0000011#7
  | .lw rd rs1 off => formI off rs1 0b010#3 rd 0b0000011#7
  | .lbu rd rs1 off => formI off rs1 0b100#3 rd 0b0000011#7
  | .lhu rd rs1 off => formI off rs1 0b101#3 rd 0b0000011#7
  | .sb rs1 rs2 off => formS off rs2 rs1 0b000#3 0b0100011#7
  | .sh rs1 rs2 off => formS off rs2 rs1 0b001#3 0b0100011#7
  | .sw rs1 rs2 off => formS off rs2 rs1 0b010#3 0b0100011#7
  | .fence hi lo => hi ++ 0b000#3 ++ lo ++ 0b0001111#7
  | .ecall => 0x00000073#32
  | .ebreak => 0x00100073#32

/-! ## The opcode table -/

/-- A row of spec/opcode_table.json: a word `w` spells the row when `w &&& mask = pattern` (R121). -/
structure TableRow where
  mnemonic : String
  pattern : Word
  mask : Word
deriving DecidableEq, Repr

/-- The rows of class R. -/
def rowsR : List TableRow :=
  [⟨"ADD", 0x00000033, 0xFE00707F⟩, ⟨"SUB", 0x40000033, 0xFE00707F⟩,
   ⟨"SLL", 0x00001033, 0xFE00707F⟩, ⟨"SLT", 0x00002033, 0xFE00707F⟩,
   ⟨"SLTU", 0x00003033, 0xFE00707F⟩, ⟨"XOR", 0x00004033, 0xFE00707F⟩,
   ⟨"SRL", 0x00005033, 0xFE00707F⟩, ⟨"SRA", 0x40005033, 0xFE00707F⟩,
   ⟨"OR", 0x00006033, 0xFE00707F⟩, ⟨"AND", 0x00007033, 0xFE00707F⟩]
/-- The rows of classes I, U-Lui and U-AuiPc. -/
def rowsI : List TableRow :=
  [⟨"ADDI", 0x00000013, 0x0000707F⟩, ⟨"SLTI", 0x00002013, 0x0000707F⟩,
   ⟨"SLTIU", 0x00003013, 0x0000707F⟩, ⟨"XORI", 0x00004013, 0x0000707F⟩,
   ⟨"ORI", 0x00006013, 0x0000707F⟩, ⟨"ANDI", 0x00007013, 0x0000707F⟩,
   ⟨"SLLI", 0x00001013, 0xFE00707F⟩, ⟨"SRLI", 0x00005013, 0xFE00707F⟩,
   ⟨"SRAI", 0x40005013, 0xFE00707F⟩, ⟨"LUI", 0x00000037, 0x0000007F⟩,
   ⟨"AUIPC", 0x00000017, 0x0000007F⟩]
/-- The rows of classes J-Jal, I-Jalr and B. -/
def rowsTransfer : List TableRow :=
  [⟨"JAL", 0x0000006F, 0x0000007F⟩, ⟨"JALR", 0x00000067, 0x0000707F⟩,
   ⟨"BEQ", 0x00000063, 0x0000707F⟩, ⟨"BNE", 0x00001063, 0x0000707F⟩,
   ⟨"BLT", 0x00004063, 0x0000707F⟩, ⟨"BGE", 0x00005063, 0x0000707F⟩,
   ⟨"BLTU", 0x00006063, 0x0000707F⟩, ⟨"BGEU", 0x00007063, 0x0000707F⟩]
/-- The rows of classes I-Load, S, Fence and E. -/
def rowsMemory : List TableRow :=
  [⟨"LB", 0x00000003, 0x0000707F⟩, ⟨"LH", 0x00001003, 0x0000707F⟩,
   ⟨"LW", 0x00002003, 0x0000707F⟩, ⟨"LBU", 0x00004003, 0x0000707F⟩,
   ⟨"LHU", 0x00005003, 0x0000707F⟩, ⟨"SB", 0x00000023, 0x0000707F⟩,
   ⟨"SH", 0x00001023, 0x0000707F⟩, ⟨"SW", 0x00002023, 0x0000707F⟩,
   ⟨"FENCE", 0x0000000F, 0x0000707F⟩, ⟨"ECALL", 0x00000073, 0xFFFFFFFF⟩,
   ⟨"EBREAK", 0x00100073, 0xFFFFFFFF⟩]

/-- The 40 rows of the opcode table (R121). -/
def opcodeTable : List TableRow := rowsR ++ rowsI ++ rowsTransfer ++ rowsMemory

/-- An instruction's mnemonic, as the opcode table spells it. -/
def Instr.mnemonic : Instr → String
  | .add _ _ _ => "ADD"
  | .sub _ _ _ => "SUB"
  | .sll _ _ _ => "SLL"
  | .slt _ _ _ => "SLT"
  | .sltu _ _ _ => "SLTU"
  | .xor _ _ _ => "XOR"
  | .srl _ _ _ => "SRL"
  | .sra _ _ _ => "SRA"
  | .or _ _ _ => "OR"
  | .and _ _ _ => "AND"
  | .addi _ _ _ => "ADDI"
  | .slti _ _ _ => "SLTI"
  | .sltiu _ _ _ => "SLTIU"
  | .xori _ _ _ => "XORI"
  | .ori _ _ _ => "ORI"
  | .andi _ _ _ => "ANDI"
  | .slli _ _ _ => "SLLI"
  | .srli _ _ _ => "SRLI"
  | .srai _ _ _ => "SRAI"
  | .lui _ _ => "LUI"
  | .auipc _ _ => "AUIPC"
  | .jal _ _ => "JAL"
  | .jalr _ _ _ => "JALR"
  | .beq _ _ _ => "BEQ"
  | .bne _ _ _ => "BNE"
  | .blt _ _ _ => "BLT"
  | .bge _ _ _ => "BGE"
  | .bltu _ _ _ => "BLTU"
  | .bgeu _ _ _ => "BGEU"
  | .lb _ _ _ => "LB"
  | .lh _ _ _ => "LH"
  | .lw _ _ _ => "LW"
  | .lbu _ _ _ => "LBU"
  | .lhu _ _ _ => "LHU"
  | .sb _ _ _ => "SB"
  | .sh _ _ _ => "SH"
  | .sw _ _ _ => "SW"
  | .fence _ _ => "FENCE"
  | .ecall => "ECALL"
  | .ebreak => "EBREAK"

end Sys2Proof
end

