-- ==== Sys2Proof/Config.lean ====
section
/-! DEFINITION. The implementation parameters of 00_scope.md R5.

A `Config` is plain data, chosen before the unit is built (70_reset_and_hazards.md R371) and kept in
the state's field `cfg`, which no step changes (log entry 1): a statement about every state is one
about every machine of the family, whatever its parameters and draws. -/

namespace Sys2Proof

/-- `P_SLT`: whether the four set-less-than instructions exist (R5; 90_conflicts.md C1). -/
inductive SltParam where
  | absent | present
deriving DecidableEq, Repr

/-- `P_ECALL`: what ECALL does (R5; 92_eei_decisions.md D5). -/
inductive EcallParam where
  | fault | nop
deriving DecidableEq, Repr

/-- `P_UNINIT_REG` and `P_UNINIT_MEM`: what a read of something never written does (R5; D14, D15). -/
inductive UninitParam where
  | fault | draw
deriving DecidableEq, Repr

/-- The parameters of R5. `memInit` lists the draw `MEM_INIT` as cells; a byte it does not list is
drawn as 0, so that a list can name any contents of a finite memory. -/
structure Config where
  /-- `MEM_SIZE`. -/
  memSize : Nat
  /-- `LOAD_BASE`. -/
  loadBase : Word
  /-- `CON_BASE`. -/
  conBase : Word
  /-- `CON_SIZE`. -/
  conSize : Nat
  /-- `P_SLT`. -/
  slt : SltParam
  /-- `P_ECALL`. -/
  ecall : EcallParam
  /-- `P_UNINIT_REG`. -/
  uninitReg : UninitParam
  /-- `P_UNINIT_MEM`. -/
  uninitMem : UninitParam
  /-- `REG_INIT`, one word for each register. -/
  regInit : Vector Word 32
  /-- `MEM_INIT`, as cells; an unlisted byte is 0. -/
  memInit : List Host.Cell
deriving DecidableEq, Repr

/-- The bounds that R5 sets on the open parameters. -/
def Config.wf (c : Config) : Bool :=
  c.memSize % 4 == 0 && decide (4 ≤ c.memSize) && decide (c.memSize ≤ 2 ^ 32)
    && c.loadBase.toNat % 4 == 0 && decide (c.loadBase.toNat < c.memSize)
    && decide (1 ≤ c.conSize) && decide (c.conBase.toNat + c.conSize ≤ 2 ^ 32)

/-- The defaults of R5 for the four behaviour parameters, on a machine given by the others. -/
def Config.withDefaults (c : Config) : Config :=
  { c with slt := .absent, ecall := .fault, uninitReg := .fault, uninitMem := .fault }

/-- What the register storage holds when the unit is built, x0 aside (10_state.md R38): the draw
`REG_INIT` under draw, the only setting that uses it (R5). Under fault R38 leaves it unspecified and no
read sees it; it is 0 (DESIGN CHOICE, log entry 4). -/
def Config.initialRegs (c : Config) : Vector Word 32 :=
  match c.uninitReg with
  | .draw => c.regInit
  | .fault => Vector.replicate 32 0#32

end Sys2Proof
end

