-- ==== Sys2Proof/Machine/Params.lean ====
section
/-! DEFINITION. The parameters of the machine that `State.reset` builds (log entries 2 to 5).

Only `State.reset` uses them: every other definition and every statement about all states takes the
parameters from the state. -/

namespace Sys2Proof.Machine

/-- The common set-up of 95_test_vectors.md part 0: `MEM_SIZE` = 0x1000, `LOAD_BASE` = 0x100,
`CON_BASE` = 0x800, `CON_SIZE` = 1. DESIGN CHOICE (log entry 2): the spec leaves these OPEN.
Each behaviour parameter takes the setting under which the instruction has an effect, and the draws
are 0. DESIGN CHOICE (log entries 3 to 5); unsafe. -/
def resetConfig : Config :=
  { memSize := 0x1000
    loadBase := 0x100#32
    conBase := 0x800#32
    conSize := 1
    slt := .present
    ecall := .nop
    uninitReg := .draw
    uninitMem := .draw
    regInit := Vector.replicate 32 0#32
    memInit := [] }

end Sys2Proof.Machine
end

