-- ==== Sys2Proof/Machine/State.lean ====
section
/-! DEFINITION. The state of the unit and its attached memory (10_state.md R20), the reasons a step
can stop, and reset (R38). -/

namespace Sys2Proof.Machine

/-- `pc_sel` and `pc_sel_latch`: the next-PC source (40_datapath_units.md R149; 10_state.md R29). -/
inductive PcSel where
  | pc4 | alu
deriving DecidableEq, Repr

/-- The faults of the unit (60_exceptions.md R341): the source's four kinds, of which `internal` is
never raised (R345), and the four model faults (R347). -/
inductive FaultKind where
  | invalidArgument | outOfRange | failedPrecondition | internal
  | consoleRead | envCall | uninitRegRead | uninitMemRead
deriving DecidableEq, Repr

/-- The stage in which a fault is raised (R349; 92_eei_decisions.md D18). -/
inductive Stage where
  | fetch | decode | execute | memory | writeback
deriving DecidableEq, Repr

/-- `status` (10_state.md R31). -/
inductive Status where
  | running
  | haltedEbreak
  | faulted (k : FaultKind)
deriving DecidableEq, Repr

/-- The fault record (R349); a field that the fault does not set is `none`. -/
structure FaultRecord where
  kind : FaultKind
  stage : Stage
  pc : Word
  word : Option Word
  addr : Option Word
  reg : Option RegIdx
deriving DecidableEq, Repr

/-- Memory: the written bytes, by rising address (20_memory.md R50, 10_state.md R36). A byte that the
list does not hold has not been written, so the list is `mem` and `mem_written` at once (log
entry 8). -/
abbrev Memory := List Host.Cell

/-- The state of R20, with the machine's parameters beside it (log entry 1). -/
structure State where
  /-- The parameters of 00_scope.md R5; no step changes them. -/
  cfg : Config
  /-- The register storage `x[0..31]`, index 0 included (R21, R22). -/
  x : Vector Word 32
  /-- `reg_written[0..31]` (R36). -/
  regWritten : Vector Bool 32
  /-- The program counter: the address of the instruction last fetched (R26). -/
  pc : Word
  /-- The last bundle's next-PC source (R29). -/
  pcSelLatch : PcSel
  /-- The ALU's last result (R29). -/
  aluLatch : Word
  /-- The `power` flag (R30). -/
  power : Bool
  /-- The halt status (R31). -/
  status : Status
  /-- The fault record, `none` until a fault fills it (60_exceptions.md R349). -/
  fault : Option FaultRecord
  /-- Memory and `mem_written` (20_memory.md R50; R36). -/
  mem : Memory
  /-- What the console has emitted, oldest first (R32). -/
  consoleOut : List Byte
deriving DecidableEq, Repr

/-- Why a step gives no next state. The unit's own faults are not here: the spec describes what they
leave behind, so the cycle that raises one ends in a next state (log entry 6). -/
inductive Fault where
  /-- Raised by `step`, by nothing else, when the loop has ended: `power` = 0 or `status` is not
  RUNNING, so that no further cycle starts (41_execution_cycle.md R170; 60_exceptions.md R351). Safe:
  the hardware does nothing here. -/
  | notRunning
deriving DecidableEq, Repr

/-- Why an instruction has no meaning. -/
inductive Refusal where
  /-- Raised by `exec` for an instruction of the table that has no meaning yet. Safe: the model stops
  where the hardware goes on. No arm of `exec` raises it now. -/
  | notModelled (mnemonic : String)
deriving DecidableEq, Repr

/-- Construction of the unit with the parameters `c`, before the image load (R38;
70_reset_and_hazards.md R370, R371). The storage of x1..x31 holds the draw `REG_INIT`
under draw, and under fault nothing that a read can see (log entry 4). -/
def State.resetWith (c : Config) : State :=
  { cfg := c
    x := c.initialRegs.set 0 0#32
    regWritten := (Vector.replicate 32 false).set 0 true
    pc := c.loadBase - 4#32
    pcSelLatch := .pc4
    aluLatch := 0#32
    power := true
    status := .running
    fault := none
    mem := []
    consoleOut := [] }

/-- The machine right after reset, with the parameters of Machine/Params.lean and no image. -/
def State.reset : State := State.resetWith resetConfig

end Sys2Proof.Machine
end

