-- ==== Sys2Proof/Machine/Bundle.lean ====
section
/-! DEFINITION. The control bundle and its selectors (40_datapath_units.md R132, R149). -/

namespace Sys2Proof.Machine

/-- `alu_op` (R132). -/
inductive AluOp where
  | none | passB | add | sub | or | and | xor | sll | srl | sra | slt | sltu
deriving DecidableEq, Repr

/-- `a_sel` (R149). -/
inductive ASel where
  | none | reg | pc
deriving DecidableEq, Repr

/-- `b_sel` (R149). -/
inductive BSel where
  | none | reg | imm
deriving DecidableEq, Repr

/-- `mem_op` (R149). -/
inductive MemOp where
  | none | read | write
deriving DecidableEq, Repr

/-- An access width of 1, 2 or 4 bytes (R149; 20_memory.md R63). -/
inductive Width where
  | byte | half | word
deriving DecidableEq, Repr

/-- The number of bytes of an access. -/
def Width.bytes : Width → Nat
  | .byte => 1
  | .half => 2
  | .word => 4

/-- `wb_sel` (R149). -/
inductive WbSel where
  | none | alu | mem | pc4
deriving DecidableEq, Repr

/-- `br_cond` (R149). -/
inductive BrCond where
  | none | eq | ne | lt | ge
deriving DecidableEq, Repr

/-- `sys` (R149). -/
inductive Sys where
  | none | ecall | ebreak
deriving DecidableEq, Repr

/-- The control bundle (R149). The sentinel "none" of a width, an index or the immediate is
`Option.none`. -/
structure ControlBundle where
  aSel : ASel
  bSel : BSel
  aluOp : AluOp
  memOp : MemOp
  memWidth : Option Width
  memSigned : Bool
  wbSel : WbSel
  pcSel : PcSel
  regWe : Bool
  brUnsigned : Bool
  brCond : BrCond
  sys : Sys
  rs1 : Option RegIdx
  rs2 : Option RegIdx
  rd : Option RegIdx
  imm : Option Word
deriving DecidableEq, Repr

/-! ## The codes of the selectors, the statuses and the stages -/

/-- The codes of R132. -/
def AluOp.code : AluOp → Nat
  | .none => 0 | .passB => 1 | .add => 2 | .sub => 3 | .or => 4 | .and => 5
  | .xor => 6 | .sll => 7 | .srl => 8 | .sra => 9 | .slt => 10 | .sltu => 11
/-- The codes of `a_sel` (R149). -/
def ASel.code : ASel → Nat
  | .none => 0 | .reg => 1 | .pc => 2
/-- The codes of `b_sel` (R149). -/
def BSel.code : BSel → Nat
  | .none => 0 | .reg => 1 | .imm => 2
/-- The codes of `mem_op` (R149). -/
def MemOp.code : MemOp → Nat
  | .none => 0 | .read => 1 | .write => 2
/-- The codes of `wb_sel` (R149). -/
def WbSel.code : WbSel → Nat
  | .none => 0 | .alu => 1 | .mem => 2 | .pc4 => 3
/-- The codes of `pc_sel` (R149). -/
def PcSel.code : PcSel → Nat
  | .pc4 => 0 | .alu => 1
/-- The codes of `br_cond` (R149). -/
def BrCond.code : BrCond → Nat
  | .none => 0 | .eq => 1 | .ne => 2 | .lt => 3 | .ge => 4
/-- The codes of `sys` (R149). -/
def Sys.code : Sys → Nat
  | .none => 0 | .ecall => 1 | .ebreak => 2
/-- The codes of the faults (60_exceptions.md R341). -/
def FaultKind.code : FaultKind → Nat
  | .invalidArgument => 2 | .outOfRange => 3 | .failedPrecondition => 4 | .internal => 5
  | .consoleRead => 16 | .envCall => 17 | .uninitRegRead => 18 | .uninitMemRead => 19
/-- The codes of `status` (10_state.md R31; 60_exceptions.md R341). -/
def Status.code : Status → Nat
  | .running => 0 | .haltedEbreak => 1 | .faulted k => k.code

end Sys2Proof.Machine
end

