-- ==== Sys2Proof/Machine/Ops.lean ====
section
/-! DEFINITION. The named operations over memory, the bus, the register file and the program counter,
and taking a fault (20_memory.md; 40_datapath_units.md R155, R157; 60_exceptions.md R349). -/

namespace Sys2Proof.Machine

/-! ## Memory as a list of written bytes -/

/-- The byte written at `a`, `none` when none has been (10_state.md R36). -/
def Memory.get? : Memory → Nat → Option Byte
  | [], _ => none
  | (b, v) :: m, a => if a = b then some v else Memory.get? m a

/-- Writes the byte `v` at `a`, keeping the addresses rising. -/
def Memory.set : Memory → Nat → Byte → Memory
  | [], a, v => [(a, v)]
  | (b, u) :: m, a, v =>
    if a < b then (a, v) :: (b, u) :: m
    else if a = b then (a, v) :: m
    else (b, u) :: Memory.set m a v

/-- The canonical form: addresses strictly rising. An unlisted byte has no value, so no entry can equal
what an unlisted one reads as. -/
abbrev Memory.wf (m : Memory) : Prop := List.Pairwise (fun c d => c.1 < d.1) m

/-- Writes the low `n` bytes of `v` from `a` up, the least significant first (20_memory.md R53). -/
def Memory.store (m : Memory) (a : Nat) (n : Width) (v : Word) : Memory :=
  match n with
  | .byte => m.set a (v.extractLsb' 0 8)
  | .half => (m.set a (v.extractLsb' 0 8)).set (a + 1) (v.extractLsb' 8 8)
  | .word =>
    (((m.set a (v.extractLsb' 0 8)).set (a + 1) (v.extractLsb' 8 8)).set (a + 2)
      (v.extractLsb' 16 8)).set (a + 3) (v.extractLsb' 24 8)

/-- Writes the bytes `bs` from `a` up: the image loader's copy (R73). -/
def Memory.copy (m : Memory) (a : Nat) : List Byte → Memory
  | [] => m
  | b :: bs => Memory.copy (m.set a b) (a + 1) bs

/-- `MEM_INIT[a]` (R62). -/
def memInitAt (c : Config) (a : Nat) : Byte := (Memory.get? c.memInit a).getD 0#8

/-- `mem_written[a]` (10_state.md R36). -/
def State.written (s : State) (a : Nat) : Bool := (s.mem.get? a).isSome

/-- The byte at `a`: the last one written there, or the draw `MEM_INIT[a]` (20_memory.md R62, R68). -/
def State.byteAt (s : State) (a : Nat) : Byte := (s.mem.get? a).getD (memInitAt s.cfg a)

/-- Every byte of an `n`-byte access at `a` has been written. -/
def State.allWritten (s : State) (a : Nat) (n : Width) : Bool :=
  (List.range n.bytes).all fun i => s.written (a + i)

/-! ## The bus -/

/-- Whether an access that starts at `a` goes to the console (20_memory.md R51). -/
def inConsole (c : Config) (a : Word) : Bool :=
  decide (c.conBase.toNat ≤ a.toNat) && decide (a.toNat < c.conBase.toNat + c.conSize)

/-- Whether an `n`-byte access at `a` leaves memory, on integers without wrap (R56). -/
def beyondMemory (c : Config) (a : Word) (n : Width) : Bool :=
  decide (c.memSize < a.toNat + n.bytes)

/-- Whether `a` is not a multiple of the access's width (R55). -/
def misaligned (a : Word) (n : Width) : Bool := a.toNat % n.bytes != 0

/-- The bytes of an access at `a`, assembled little-endian and extended to a word (R53, R58): a byte
or halfword read sign-extends when `signed`, a word read never does. -/
def State.assemble (s : State) (a : Nat) (n : Width) (signed : Bool) : Word :=
  match n with
  | .byte =>
    let v := s.byteAt a
    if signed then v.signExtend 32 else v.setWidth 32
  | .half =>
    let v := s.byteAt (a + 1) ++ s.byteAt a
    if signed then v.signExtend 32 else v.setWidth 32
  | .word => wordOfBytes (s.byteAt a) (s.byteAt (a + 1)) (s.byteAt (a + 2)) (s.byteAt (a + 3))

/-- `BusRead(a, n, signed)` (R57, R58, R61, R62): the word read, or the fault. -/
def State.busRead (s : State) (a : Word) (n : Width) (signed : Bool) : Except FaultKind Word :=
  if inConsole s.cfg a then .error .consoleRead
  else if beyondMemory s.cfg a n then .error .outOfRange
  else if misaligned a n then .error .failedPrecondition
  else if s.cfg.uninitMem = UninitParam.fault ∧ s.allWritten a.toNat n = false then .error .uninitMemRead
  else .ok (s.assemble a.toNat n signed)

/-- `BusWrite(a, n, v)` (R59, R60): the state with the bytes written or the console byte emitted, or
the fault. -/
def State.busWrite (s : State) (a : Word) (n : Width) (v : Word) : Except FaultKind State :=
  if inConsole s.cfg a then
    if misaligned a n then .error .failedPrecondition
    else .ok { s with consoleOut := s.consoleOut ++ [v.extractLsb' 0 8] }
  else if beyondMemory s.cfg a n then .error .outOfRange
  else if misaligned a n then .error .failedPrecondition
  else .ok { s with mem := s.mem.store a.toNat n v }

/-! ## The register file -/

/-- What register `i` reads as when the read does not fault: x0 is 0, a register never written is the
draw `REG_INIT[i]`, any other is its storage (40_datapath_units.md R157). -/
def State.regValue (s : State) (i : RegIdx) : Word :=
  if i = 0 then 0#32 else if s.regWritten[i] then s.x[i] else s.cfg.regInit[i]

/-- Whether a read of register `i` faults (R157). -/
def State.regUnreadable (s : State) (i : RegIdx) : Bool :=
  decide (i ≠ 0) && !s.regWritten[i] && decide (s.cfg.uninitReg = UninitParam.fault)

/-- `RegRead(i)` (R157). -/
def State.regRead (s : State) (i : Option RegIdx) : Except FaultKind Word :=
  match i with
  | none => .ok 0#32
  | some r => if s.regUnreadable r then .error .uninitRegRead else .ok (s.regValue r)

/-- `RegWrite(i, v, we)` (R157). -/
def State.regWrite (s : State) (i : Option RegIdx) (v : Word) (we : Bool) : State :=
  match i with
  | none => s
  | some r =>
    if we ∧ r ≠ 0 then
      { s with x := s.x.set r.val v r.isLt, regWritten := s.regWritten.set r.val true r.isLt }
    else s

/-- The register snapshot (10_state.md R25, 70_reset_and_hazards.md R378): what a read of each of the 32
registers gives, without changing the state. A register never written under `P_UNINIT_REG` = fault has no
value, so its entry is the `UninitRegRead` that reading it would raise (DEDUCED from R25, 00_scope.md R5 and
R10, log entry 19); the snapshot itself raises nothing. -/
def State.snapshot (s : State) : Vector (Except FaultKind Word) 32 :=
  Vector.ofFn fun r => s.regRead (some r)

/-! ## The program counter -/

/-- The PC multiplexer: the next fetch address (40_datapath_units.md R155). -/
def State.nextPc (s : State) : Word :=
  match s.pcSelLatch with
  | .pc4 => s.pc + 4#32
  | .alu => s.aluLatch

/-! ## Taking a fault -/

/-- A fault of kind `k` in stage `st`: the status and the record are set, everything else stays as it
was at that moment, and `power` stays 1 (60_exceptions.md R340, R349). There is no return from a fault
(R351), so nothing stands beside this operation to undo it: a step of the state it gives stops. -/
def State.raise (s : State) (k : FaultKind) (st : Stage) (word addr : Option Word)
    (reg : Option RegIdx) : State :=
  { s with
    status := .faulted k
    fault := some { kind := k, stage := st, pc := s.pc, word := word, addr := addr, reg := reg } }

/-! ## Construction, image load and snapshot: the host's side -/

/-- The image loader (20_memory.md R73): the image's bytes at `LOAD_BASE`, written straight into
memory; `none` is the failed load of an image that does not fit. -/
def State.loadImage (s : State) (image : List Byte) : Option State :=
  if s.cfg.loadBase.toNat + image.length ≤ s.cfg.memSize then
    some { s with mem := s.mem.copy s.cfg.loadBase.toNat image }
  else none

/-- The four bytes of `w` written straight into memory at `a`: the load of a one-word image there. -/
def State.placeWord (s : State) (a w : Word) : State :=
  { s with mem := s.mem.store a.toNat .word w }

/-- Construction followed by the image load (70_reset_and_hazards.md R371); `none` when `load_ok` is
0, and then the unit never runs. -/
def boot (c : Config) (image : List Byte) : Option State := (State.resetWith c).loadImage image

end Sys2Proof.Machine
end

