-- ==== Sys2Proof/Machine/Flags.lean ====
section
/-! DEFINITION. The signals that exist within a cycle only: the ALU's overflow, the branch
comparator's pair and the branch decision (40_datapath_units.md R145 to R147, R152). The unit has no
flag register (10_state.md R33). -/

namespace Sys2Proof.Machine

/-- The ALU's `overflow` output for `op` on `a` and `b` with result `r` (R145). Nothing reads it. -/
def overflow (op : AluOp) (a b r : Word) : Bool :=
  match op with
  | .add => a.msb == b.msb && r.msb != a.msb
  | .sub => a.msb != b.msb && r.msb != a.msb
  | .none | .passB | .or | .and | .xor | .sll | .srl | .sra | .slt | .sltu => false

/-- The branch comparator's outputs (R146). -/
structure Comparison where
  equal : Bool
  lessThan : Bool
deriving DecidableEq, Repr

/-- `Compare(is_unsigned, a, b)` (R146). -/
def compareWords (isUnsigned : Bool) (a b : Word) : Comparison :=
  { equal := decide (a = b)
    lessThan := if isUnsigned then a.ult b else a.slt b }

/-- Whether a branch is taken; the decision of the second decode phase (R152). -/
def BrCond.holds (c : BrCond) (p : Comparison) : Bool :=
  match c with
  | .none => false
  | .eq => p.equal
  | .ne => !p.equal
  | .lt => p.lessThan
  | .ge => p.equal || !p.lessThan

/-- `SetBranchComp`: a condition that holds turns the next-PC source to the ALU, and a bundle of any
class but B is left alone (R152, R153). -/
def setBranchComp (b : ControlBundle) (p : Comparison) : ControlBundle :=
  if b.brCond.holds p then { b with pcSel := .alu } else b

end Sys2Proof.Machine
end

