-- ==== Sys2Proof/Machine/Alu.lean ====
section
/-! DEFINITION. The ALU (40_datapath_units.md R132 to R145). -/

namespace Sys2Proof.Machine

/-- The shift amount: the low 5 bits of operand B (R143). -/
def shiftAmount (b : Word) : Nat := (b.extractLsb' 0 5).toNat

/-- The ALU's result (R132). It has no error output (R143). -/
def aluResult (op : AluOp) (a b : Word) : Word :=
  match op with
  | .none => 0#32
  | .passB => b
  | .add => a + b
  | .sub => a - b
  | .or => a ||| b
  | .and => a &&& b
  | .xor => a ^^^ b
  | .sll => a <<< shiftAmount b
  | .srl => a >>> shiftAmount b
  | .sra => a.sshiftRight (shiftAmount b)
  | .slt => if a.slt b then 1#32 else 0#32
  | .sltu => if a.ult b then 1#32 else 0#32

/-- The ALU's two outputs. -/
structure AluOut where
  result : Word
  overflow : Bool
deriving DecidableEq, Repr

/-- `ALU(op, a, b)` as a block (R132, R145). -/
def alu (op : AluOp) (a b : Word) : AluOut :=
  { result := aluResult op a b, overflow := overflow op a b (aluResult op a b) }

end Sys2Proof.Machine
end

