-- ==== Sys2Proof/Machine/Operands.lean ====
section
/-! DEFINITION. The operand and write-back multiplexers (40_datapath_units.md R154, R156). -/

namespace Sys2Proof.Machine

/-- Operand A (R154): `v1` is the value read for rs1, `pc` the current instruction's address. -/
def operandA (sel : ASel) (v1 pc : Word) : Word :=
  match sel with
  | .none => 0#32
  | .reg => v1
  | .pc => pc

/-- Operand B (R154): `v2` is the value read for rs2. The value 0 for IMM in a bundle
without an immediate, which no word's bundle is, is the model's (DESIGN CHOICE, log entry 20). -/
def operandB (sel : BSel) (v2 : Word) (imm : Option Word) : Word :=
  match sel with
  | .none => 0#32
  | .reg => v2
  | .imm => imm.getD 0#32

/-- The write-back value (R156): `r` is the ALU result, `m` what the load returned. The value 0 for
NONE is the model's (DESIGN CHOICE, log entry 20): R156 says only that NONE occurs with `reg_we` = 0, so it
is never written. -/
def writeBackValue (sel : WbSel) (r m pc : Word) : Word :=
  match sel with
  | .none => 0#32
  | .alu => r
  | .mem => m
  | .pc4 => pc + 4#32

end Sys2Proof.Machine
end

