-- ==== Sys2Proof/Machine/Cycle.lean ====
section
/-! DEFINITION. The stages of the cycle: the fetch, and what follows it, run by a control bundle
(41_execution_cycle.md R171 to R177). A stage answers the state it leaves, or the state in which the fault it raised has ended
the cycle. `w` is the fetched word, which a fault records. -/

namespace Sys2Proof.Machine

/-- A fault raised in the Decode stage (60_exceptions.md R349). -/
def State.decodeFault (s : State) (k : FaultKind) (w : Word) (reg : Option RegIdx) : State :=
  s.raise k .decode (some w) none reg

/-- Fetch (R171): `pc` moves to the next fetch address first and stands even when the read faults; the
fetch is a 4-byte unsigned read. -/
def fetchStage (s : State) : Except State (State × Word) :=
  let s1 := { s with pc := s.nextPc }
  match s1.busRead s1.pc .word false with
  | .error k => .error (s1.raise k .fetch none (some s1.pc) none)
  | .ok w => .ok (s1, w)

/-- Decode, first part: EBREAK clears `power`, ECALL raises `EnvCall` under `P_ECALL` = fault
(40_datapath_units.md R158). -/
def sysPhase (w : Word) (b : ControlBundle) (s : State) : Except State State :=
  match b.sys with
  | .none => .ok s
  | .ebreak => .ok { s with power := false }
  | .ecall =>
    match s.cfg.ecall with
    | .fault => .error (s.decodeFault .envCall w none)
    | .nop => .ok s

/-- Decode, second part: the two register reads, rs1 first (R172; 60_exceptions.md R348). -/
def readPhase (w : Word) (b : ControlBundle) (s : State) : Except State (Word × Word) :=
  match s.regRead b.rs1 with
  | .error k => .error (s.decodeFault k w b.rs1)
  | .ok v1 =>
    match s.regRead b.rs2 with
    | .error k => .error (s.decodeFault k w b.rs2)
    | .ok v2 => .ok (v1, v2)

/-- Execute (R173): compare, decide the branch, run the ALU on the multiplexed operands (R154), and set
the two latches. -/
def executeStage (b : ControlBundle) (v1 v2 : Word) (s : State) : State :=
  { s with
    pcSelLatch := (setBranchComp b (compareWords b.brUnsigned v1 v2)).pcSel
    aluLatch := (alu b.aluOp (operandA b.aSel v1 s.pc) (operandB b.bSel v2 b.imm)).result }

/-- Memory (R174): a read or a write at the ALU's output; the second component is what a read
returns. A word's bundle that accesses memory always has a width; one without a width would make no access,
and a stage that reads nothing returns 0, which no word's bundle writes back (DESIGN CHOICE, log entry 20). -/
def memoryStage (w : Word) (b : ControlBundle) (v2 : Word) (s : State) :
    Except State (State × Word) :=
  match b.memOp, b.memWidth with
  | .read, some n =>
    match s.busRead s.aluLatch n b.memSigned with
    | .error k => .error (s.raise k .memory (some w) (some s.aluLatch) none)
    | .ok m => .ok (s, m)
  | .write, some n =>
    match s.busWrite s.aluLatch n v2 with
    | .error k => .error (s.raise k .memory (some w) (some s.aluLatch) none)
    | .ok t => .ok (t, 0#32)
  | _, _ => .ok (s, 0#32)

/-- Writeback (R175). -/
def writebackStage (b : ControlBundle) (m : Word) (s : State) : State :=
  s.regWrite b.rd (writeBackValue b.wbSel s.aluLatch m s.pc) b.regWe

/-- End of cycle (R176). -/
def endOfCycle (s : State) : State :=
  if s.power then s else { s with status := .haltedEbreak }

/-- Decode (after the bundle is known), Execute, Memory, Writeback and end of cycle (R177). -/
def runBundle (w : Word) (b : ControlBundle) (s : State) : State :=
  match sysPhase w b s with
  | .error t => t
  | .ok s1 =>
    match readPhase w b s1 with
    | .error t => t
    | .ok (v1, v2) =>
      match memoryStage w b v2 (executeStage b v1 v2 s1) with
      | .error t => t
      | .ok (s3, m) => endOfCycle (writebackStage b m s3)

/-- A cycle's outcome: the state it ends in. The unit refuses nothing and takes every fault as a halted
next state (log entry 6). -/
def runInstr (i : Instr) (b : ControlBundle) (s : State) : Host.Outcome State Fault Refusal :=
  .next (runBundle (encode i) b s)

/-- As `runInstr`, for the instructions that exist only when `P_SLT` = present: under `absent` their
word raises `InvalidArgument` in Decode (30_encoding.md R104, R105; 90_conflicts.md C1). -/
def runSltInstr (i : Instr) (b : ControlBundle) (s : State) : Host.Outcome State Fault Refusal :=
  match s.cfg.slt with
  | .present => runInstr i b s
  | .absent => .next (s.decodeFault .invalidArgument (encode i) none)

end Sys2Proof.Machine
end

