-- ==== Sys2Proof/Machine/Control.lean ====
section
/-! DEFINITION. The control bundles of R150, in two shapes: for each class from an instruction's
operands, which the meanings use; and from the word alone, the instruction decoder as the block of
R148. `cycleState` is the whole cycle of 41_execution_cycle.md R177 over that block. -/

namespace Sys2Proof.Machine

/-! ## From operands -/

/-- Class R (R150; 42_alu_register.md R200). -/
def bundleR (op : AluOp) (rd rs1 rs2 : RegIdx) : ControlBundle :=
  { aSel := .reg, bSel := .reg, aluOp := op, memOp := .none, memWidth := none, memSigned := false
    wbSel := .alu, pcSel := .pc4, regWe := decide (rd ≠ 0), brUnsigned := false, brCond := .none
    sys := .none, rs1 := some rs1, rs2 := some rs2, rd := some rd, imm := none }

/-- Class I (R150; 43_alu_immediate_upper.md R230). -/
def bundleI (op : AluOp) (rd rs1 : RegIdx) (imm : Word) : ControlBundle :=
  { aSel := .reg, bSel := .imm, aluOp := op, memOp := .none, memWidth := none, memSigned := false
    wbSel := .alu, pcSel := .pc4, regWe := decide (rd ≠ 0), brUnsigned := false, brCond := .none
    sys := .none, rs1 := some rs1, rs2 := none, rd := some rd, imm := some imm }

/-- Class I-Load (R150; 45_load_store.md R290). -/
def bundleLoad (n : Width) (signed : Bool) (rd rs1 : RegIdx) (off : BitVec 12) : ControlBundle :=
  { aSel := .reg, bSel := .imm, aluOp := .add, memOp := .read, memWidth := some n
    memSigned := signed, wbSel := .mem, pcSel := .pc4, regWe := decide (rd ≠ 0)
    brUnsigned := false, brCond := .none, sys := .none, rs1 := some rs1, rs2 := none
    rd := some rd, imm := some (off.signExtend 32) }

/-- Class S (R150; 45_load_store.md R296). -/
def bundleStore (n : Width) (rs1 rs2 : RegIdx) (off : BitVec 12) : ControlBundle :=
  { aSel := .reg, bSel := .imm, aluOp := .add, memOp := .write, memWidth := some n
    memSigned := false, wbSel := .none, pcSel := .pc4, regWe := false, brUnsigned := false
    brCond := .none, sys := .none, rs1 := some rs1, rs2 := some rs2, rd := none
    imm := some (off.signExtend 32) }

/-- Class B (R150; 44_control_transfer.md R263). -/
def bundleBranch (c : BrCond) (isUnsigned : Bool) (rs1 rs2 : RegIdx) (off : BitVec 13) :
    ControlBundle :=
  { aSel := .pc, bSel := .imm, aluOp := .add, memOp := .none, memWidth := none, memSigned := false
    wbSel := .none, pcSel := .pc4, regWe := false, brUnsigned := isUnsigned, brCond := c
    sys := .none, rs1 := some rs1, rs2 := some rs2, rd := none
    imm := some (off.signExtend 32) }

/-- Classes U-Lui and U-AuiPc (R150): LUI passes the immediate through, AUIPC adds it to `pc`. -/
def bundleU (a : ASel) (op : AluOp) (rd : RegIdx) (imm : BitVec 20) : ControlBundle :=
  { aSel := a, bSel := .imm, aluOp := op, memOp := .none, memWidth := none, memSigned := false
    wbSel := .alu, pcSel := .pc4, regWe := decide (rd ≠ 0), brUnsigned := false, brCond := .none
    sys := .none, rs1 := none, rs2 := none, rd := some rd, imm := some (imm ++ 0#12) }

/-- Classes J-Jal and I-Jalr (R150; 44_control_transfer.md R260): the base is `pc` or a register. -/
def bundleJump (a : ASel) (rd : RegIdx) (rs1 : Option RegIdx) (imm : Word) : ControlBundle :=
  { aSel := a, bSel := .imm, aluOp := .add, memOp := .none, memWidth := none, memSigned := false
    wbSel := .pc4, pcSel := .alu, regWe := decide (rd ≠ 0), brUnsigned := false, brCond := .none
    sys := .none, rs1 := rs1, rs2 := none, rd := some rd, imm := some imm }

/-- Classes Fence and E (R150): every selector is "none". -/
def bundleSys (k : Sys) : ControlBundle :=
  { aSel := .none, bSel := .none, aluOp := .none, memOp := .none, memWidth := none
    memSigned := false, wbSel := .none, pcSel := .pc4, regWe := false, brUnsigned := false
    brCond := .none, sys := k, rs1 := none, rs2 := none, rd := none, imm := none }

/-! ## From the word: the instruction decoder as a block -/

/-- The ALU operation of class R (30_encoding.md R104); `none` is `InvalidArgument`. -/
def aluOpR (p : SltParam) (f3 : Option (BitVec 3)) (f7 : Option (BitVec 7)) : Option AluOp :=
  if f7 = some 0b0000000#7 then
    if f3 = some 0b000#3 then some .add
    else if f3 = some 0b001#3 then some .sll
    else if f3 = some 0b010#3 then if p = .present then some .slt else none
    else if f3 = some 0b011#3 then if p = .present then some .sltu else none
    else if f3 = some 0b100#3 then some .xor
    else if f3 = some 0b101#3 then some .srl
    else if f3 = some 0b110#3 then some .or
    else if f3 = some 0b111#3 then some .and
    else none
  else if f7 = some 0b0100000#7 then
    if f3 = some 0b000#3 then some .sub
    else if f3 = some 0b101#3 then some .sra
    else none
  else none

/-- The ALU operation of class I (30_encoding.md R105 to R107); `top` is imm[11:5]. -/
def aluOpI (p : SltParam) (f3 : Option (BitVec 3)) (top : BitVec 7) : Option AluOp :=
  if f3 = some 0b000#3 then some .add
  else if f3 = some 0b001#3 then if top = 0b0000000#7 then some .sll else none
  else if f3 = some 0b010#3 then if p = .present then some .slt else none
  else if f3 = some 0b011#3 then if p = .present then some .sltu else none
  else if f3 = some 0b100#3 then some .xor
  else if f3 = some 0b101#3 then
    if top = 0b0000000#7 then some .srl
    else if top = 0b0100000#7 then some .sra
    else none
  else if f3 = some 0b110#3 then some .or
  else if f3 = some 0b111#3 then some .and
  else none

/-- A load's width and signedness (30_encoding.md R108; LW takes the signed variant, 45_load_store.md
R293). -/
def loadKind (f3 : Option (BitVec 3)) : Option (Width × Bool) :=
  if f3 = some 0b000#3 then some (.byte, true)
  else if f3 = some 0b001#3 then some (.half, true)
  else if f3 = some 0b010#3 then some (.word, true)
  else if f3 = some 0b100#3 then some (.byte, false)
  else if f3 = some 0b101#3 then some (.half, false)
  else none

/-- A store's width (30_encoding.md R109). -/
def storeKind (f3 : Option (BitVec 3)) : Option Width :=
  if f3 = some 0b000#3 then some .byte
  else if f3 = some 0b001#3 then some .half
  else if f3 = some 0b010#3 then some .word
  else none

/-- A branch's condition and signedness (30_encoding.md R110). -/
def branchKind (f3 : Option (BitVec 3)) : Option (BrCond × Bool) :=
  if f3 = some 0b000#3 then some (.eq, false)
  else if f3 = some 0b001#3 then some (.ne, false)
  else if f3 = some 0b100#3 then some (.lt, false)
  else if f3 = some 0b101#3 then some (.ge, false)
  else if f3 = some 0b110#3 then some (.lt, true)
  else if f3 = some 0b111#3 then some (.ge, true)
  else none

/-- The bundle with every selector at "none", the extractor's indices and the immediate decoder's
output (R149, R150). -/
def emptyBundle (f : Fields) (w : Word) : ControlBundle :=
  { aSel := .none, bSel := .none, aluOp := .none, memOp := .none, memWidth := none
    memSigned := false, wbSel := .none, pcSel := .pc4, regWe := false, brUnsigned := false
    brCond := .none, sys := .none, rs1 := f.rs1, rs2 := f.rs2, rd := f.rd
    imm := decodeImmediate f.cls w }

/-- `reg_we` of a class with a destination: rd ≠ 0 (R151). -/
def writeEnable (rd : Option RegIdx) : Bool := decide (rd ≠ some 0)

/-- The bundle of a recognized class (R150), `none` for a function field the class rejects. -/
def classBundle (p : SltParam) (f : Fields) (w : Word) : Option ControlBundle :=
  let e := emptyBundle f w
  match f.cls with
  | .r => (aluOpR p f.funct3 f.funct7).map fun op =>
      { e with aSel := .reg, bSel := .reg, aluOp := op, wbSel := .alu, regWe := writeEnable f.rd }
  | .i => (aluOpI p f.funct3 (w.extractLsb' 25 7)).map fun op =>
      { e with aSel := .reg, bSel := .imm, aluOp := op, wbSel := .alu, regWe := writeEnable f.rd }
  | .iLoad => (loadKind f.funct3).map fun k =>
      { e with
        aSel := .reg, bSel := .imm, aluOp := .add, memOp := .read, memWidth := some k.1
        memSigned := k.2, wbSel := .mem, regWe := writeEnable f.rd }
  | .s => (storeKind f.funct3).map fun n =>
      { e with
        aSel := .reg, bSel := .imm, aluOp := .add, memOp := .write, memWidth := some n }
  | .b => (branchKind f.funct3).map fun k =>
      { e with aSel := .pc, bSel := .imm, aluOp := .add, brCond := k.1, brUnsigned := k.2 }
  | .uLui => some
      { e with bSel := .imm, aluOp := .passB, wbSel := .alu, regWe := writeEnable f.rd }
  | .uAuipc => some
      { e with
        aSel := .pc, bSel := .imm, aluOp := .add, wbSel := .alu, regWe := writeEnable f.rd }
  | .jJal => some
      { e with
        aSel := .pc, bSel := .imm, aluOp := .add, wbSel := .pc4, pcSel := .alu
        regWe := writeEnable f.rd }
  | .iJalr =>
    if f.funct3 = some 0b000#3 then some
      { e with
        aSel := .reg, bSel := .imm, aluOp := .add, wbSel := .pc4, pcSel := .alu
        regWe := writeEnable f.rd }
    else none
  | .fence => if f.funct3 = some 0b000#3 then some e else none
  | .e =>
    if w = 0x00000073#32 then some { e with sys := .ecall }
    else if w = 0x00100073#32 then some { e with sys := .ebreak }
    else none

/-- `Decode(w)` (R148): a function of the word and of `P_SLT` alone; `none` is `InvalidArgument`. -/
def decodeBundle (p : SltParam) (w : Word) : Option ControlBundle :=
  match extractFields w with
  | none => none
  | some f => classBundle p f w

/-- The whole cycle of 41_execution_cycle.md R177, over the decoder block: the state the cycle ends
in. -/
def cycleState (s : State) : State :=
  match fetchStage s with
  | .error t => t
  | .ok (s1, w) =>
    match decodeBundle s1.cfg.slt w with
    | none => s1.decodeFault .invalidArgument w none
    | some b => runBundle w b s1

end Sys2Proof.Machine
end

