-- ==== Sys2Proof/Machine/AluImm.lean ====
section
/-! DEFINITION. Register-immediate ALU and upper-immediate instructions (43_alu_immediate_upper.md R230 to R241). -/

namespace Sys2Proof.Machine

/-! ## Class I -/

/-- ADDI (R231). -/
def execAddi (rd rs1 : RegIdx) (imm : BitVec 12) (s : State) :
    Host.Outcome State Fault Refusal :=
  runInstr (.addi rd rs1 imm) (bundleI .add rd rs1 (imm.signExtend 32)) s

/-- SLTI (R232): only under `P_SLT` = present. -/
def execSlti (rd rs1 : RegIdx) (imm : BitVec 12) (s : State) :
    Host.Outcome State Fault Refusal :=
  runSltInstr (.slti rd rs1 imm) (bundleI .slt rd rs1 (imm.signExtend 32)) s

/-- SLTIU (R233): only under `P_SLT` = present; the immediate is sign-extended, then compared unsigned. -/
def execSltiu (rd rs1 : RegIdx) (imm : BitVec 12) (s : State) :
    Host.Outcome State Fault Refusal :=
  runSltInstr (.sltiu rd rs1 imm) (bundleI .sltu rd rs1 (imm.signExtend 32)) s

/-- XORI (R234). -/
def execXori (rd rs1 : RegIdx) (imm : BitVec 12) (s : State) :
    Host.Outcome State Fault Refusal :=
  runInstr (.xori rd rs1 imm) (bundleI .xor rd rs1 (imm.signExtend 32)) s

/-- ORI (R235). -/
def execOri (rd rs1 : RegIdx) (imm : BitVec 12) (s : State) :
    Host.Outcome State Fault Refusal :=
  runInstr (.ori rd rs1 imm) (bundleI .or rd rs1 (imm.signExtend 32)) s

/-- ANDI (R236). -/
def execAndi (rd rs1 : RegIdx) (imm : BitVec 12) (s : State) :
    Host.Outcome State Fault Refusal :=
  runInstr (.andi rd rs1 imm) (bundleI .and rd rs1 (imm.signExtend 32)) s

/-- SLLI (R237). -/
def execSlli (rd rs1 : RegIdx) (shamt : BitVec 5) (s : State) :
    Host.Outcome State Fault Refusal :=
  runInstr (.slli rd rs1 shamt)
    (bundleI .sll rd rs1 ((0b0000000#7 ++ shamt : BitVec 12).signExtend 32)) s

/-- SRLI (R238). -/
def execSrli (rd rs1 : RegIdx) (shamt : BitVec 5) (s : State) :
    Host.Outcome State Fault Refusal :=
  runInstr (.srli rd rs1 shamt)
    (bundleI .srl rd rs1 ((0b0000000#7 ++ shamt : BitVec 12).signExtend 32)) s

/-- SRAI (R239): operand B is the whole immediate, 0x400 + shamt, which the ALU masks. -/
def execSrai (rd rs1 : RegIdx) (shamt : BitVec 5) (s : State) :
    Host.Outcome State Fault Refusal :=
  runInstr (.srai rd rs1 shamt)
    (bundleI .sra rd rs1 ((0b0100000#7 ++ shamt : BitVec 12).signExtend 32)) s

/-! ## Upper immediates -/

/-- LUI (R240). -/
def execLui (rd : RegIdx) (imm : BitVec 20) (s : State) : Host.Outcome State Fault Refusal :=
  runInstr (.lui rd imm) (bundleU .none .passB rd imm) s

/-- AUIPC (R241). -/
def execAuipc (rd : RegIdx) (imm : BitVec 20) (s : State) : Host.Outcome State Fault Refusal :=
  runInstr (.auipc rd imm) (bundleU .pc .add rd imm) s

end Sys2Proof.Machine
end

