-- ==== Sys2Proof/Machine/AluReg.lean ====
section
/-! DEFINITION. Register-register ALU instructions, class R (42_alu_register.md R200 to R210). -/

namespace Sys2Proof.Machine

/-- ADD (R201). -/
def execAdd (rd rs1 rs2 : RegIdx) (s : State) : Host.Outcome State Fault Refusal :=
  runInstr (.add rd rs1 rs2) (bundleR .add rd rs1 rs2) s

/-- SUB (R202). -/
def execSub (rd rs1 rs2 : RegIdx) (s : State) : Host.Outcome State Fault Refusal :=
  runInstr (.sub rd rs1 rs2) (bundleR .sub rd rs1 rs2) s

/-- SLL (R203). -/
def execSll (rd rs1 rs2 : RegIdx) (s : State) : Host.Outcome State Fault Refusal :=
  runInstr (.sll rd rs1 rs2) (bundleR .sll rd rs1 rs2) s

/-- SLT (R204): only under `P_SLT` = present. -/
def execSlt (rd rs1 rs2 : RegIdx) (s : State) : Host.Outcome State Fault Refusal :=
  runSltInstr (.slt rd rs1 rs2) (bundleR .slt rd rs1 rs2) s

/-- SLTU (R205): only under `P_SLT` = present. -/
def execSltu (rd rs1 rs2 : RegIdx) (s : State) : Host.Outcome State Fault Refusal :=
  runSltInstr (.sltu rd rs1 rs2) (bundleR .sltu rd rs1 rs2) s

/-- XOR (R206). -/
def execXor (rd rs1 rs2 : RegIdx) (s : State) : Host.Outcome State Fault Refusal :=
  runInstr (.xor rd rs1 rs2) (bundleR .xor rd rs1 rs2) s

/-- SRL (R207). -/
def execSrl (rd rs1 rs2 : RegIdx) (s : State) : Host.Outcome State Fault Refusal :=
  runInstr (.srl rd rs1 rs2) (bundleR .srl rd rs1 rs2) s

/-- SRA (R208). -/
def execSra (rd rs1 rs2 : RegIdx) (s : State) : Host.Outcome State Fault Refusal :=
  runInstr (.sra rd rs1 rs2) (bundleR .sra rd rs1 rs2) s

/-- OR (R209). -/
def execOr (rd rs1 rs2 : RegIdx) (s : State) : Host.Outcome State Fault Refusal :=
  runInstr (.or rd rs1 rs2) (bundleR .or rd rs1 rs2) s

/-- AND (R210). -/
def execAnd (rd rs1 rs2 : RegIdx) (s : State) : Host.Outcome State Fault Refusal :=
  runInstr (.and rd rs1 rs2) (bundleR .and rd rs1 rs2) s

end Sys2Proof.Machine
end

