-- ==== Sys2Proof/Machine/LoadStore.lean ====
section
/-! DEFINITION. Loads and stores, classes I-Load and S (45_load_store.md R290 to R301). -/

namespace Sys2Proof.Machine

/-- LB (R291). -/
def execLb (rd rs1 : RegIdx) (off : BitVec 12) (s : State) :
    Host.Outcome State Fault Refusal :=
  runInstr (.lb rd rs1 off) (bundleLoad .byte true rd rs1 off) s

/-- LH (R292). -/
def execLh (rd rs1 : RegIdx) (off : BitVec 12) (s : State) :
    Host.Outcome State Fault Refusal :=
  runInstr (.lh rd rs1 off) (bundleLoad .half true rd rs1 off) s

/-- LW (R293). -/
def execLw (rd rs1 : RegIdx) (off : BitVec 12) (s : State) :
    Host.Outcome State Fault Refusal :=
  runInstr (.lw rd rs1 off) (bundleLoad .word true rd rs1 off) s

/-- LBU (R294). -/
def execLbu (rd rs1 : RegIdx) (off : BitVec 12) (s : State) :
    Host.Outcome State Fault Refusal :=
  runInstr (.lbu rd rs1 off) (bundleLoad .byte false rd rs1 off) s

/-- LHU (R295). -/
def execLhu (rd rs1 : RegIdx) (off : BitVec 12) (s : State) :
    Host.Outcome State Fault Refusal :=
  runInstr (.lhu rd rs1 off) (bundleLoad .half false rd rs1 off) s

/-- SB (R297). -/
def execSb (rs1 rs2 : RegIdx) (off : BitVec 12) (s : State) :
    Host.Outcome State Fault Refusal :=
  runInstr (.sb rs1 rs2 off) (bundleStore .byte rs1 rs2 off) s

/-- SH (R298). -/
def execSh (rs1 rs2 : RegIdx) (off : BitVec 12) (s : State) :
    Host.Outcome State Fault Refusal :=
  runInstr (.sh rs1 rs2 off) (bundleStore .half rs1 rs2 off) s

/-- SW (R299). -/
def execSw (rs1 rs2 : RegIdx) (off : BitVec 12) (s : State) :
    Host.Outcome State Fault Refusal :=
  runInstr (.sw rs1 rs2 off) (bundleStore .word rs1 rs2 off) s

end Sys2Proof.Machine
end

