-- ==== Sys2Proof/Machine/System.lean ====
section
/-! DEFINITION. Ordering and system instructions, classes Fence and E (46_system.md R320 to R322). -/

namespace Sys2Proof.Machine

/-- FENCE (R320): nothing but the `pc` moves on. Its other bits are ignored (30_encoding.md R112). -/
def execFence (hi : BitVec 17) (lo : BitVec 5) (s : State) : Host.Outcome State Fault Refusal :=
  runInstr (.fence hi lo) (bundleSys .none) s

/-- ECALL (R321): `EnvCall` under `P_ECALL` = fault, nothing but the `pc` moving on under `nop`. -/
def execEcall (s : State) : Host.Outcome State Fault Refusal :=
  runInstr .ecall (bundleSys .ecall) s

/-- EBREAK (R322): the cycle completes, `power` is 0 and `status` HALTED_EBREAK. -/
def execEbreak (s : State) : Host.Outcome State Fault Refusal :=
  runInstr .ebreak (bundleSys .ebreak) s

end Sys2Proof.Machine
end

