-- ==== Sys2Proof/Machine/Transfer.lean ====
section
/-! DEFINITION. Control transfer: classes J-Jal, I-Jalr and B (44_control_transfer.md R260 to R270). -/

namespace Sys2Proof.Machine

/-- JAL (R261): the target is `pc` plus the offset, the link `pc + 4`. -/
def execJal (rd : RegIdx) (off : BitVec 21) (s : State) : Host.Outcome State Fault Refusal :=
  runInstr (.jal rd off) (bundleJump .pc rd none (off.signExtend 32)) s

/-- JALR (R262): the target is the sum of base and offset, whose bit 0 is not cleared. -/
def execJalr (rd rs1 : RegIdx) (off : BitVec 12) (s : State) :
    Host.Outcome State Fault Refusal :=
  runInstr (.jalr rd rs1 off) (bundleJump .reg rd (some rs1) (off.signExtend 32)) s

/-- BEQ (R264). -/
def execBeq (rs1 rs2 : RegIdx) (off : BitVec 13) (s : State) :
    Host.Outcome State Fault Refusal :=
  runInstr (.beq rs1 rs2 off) (bundleBranch .eq false rs1 rs2 off) s

/-- BNE (R265). -/
def execBne (rs1 rs2 : RegIdx) (off : BitVec 13) (s : State) :
    Host.Outcome State Fault Refusal :=
  runInstr (.bne rs1 rs2 off) (bundleBranch .ne false rs1 rs2 off) s

/-- BLT, signed (R266). -/
def execBlt (rs1 rs2 : RegIdx) (off : BitVec 13) (s : State) :
    Host.Outcome State Fault Refusal :=
  runInstr (.blt rs1 rs2 off) (bundleBranch .lt false rs1 rs2 off) s

/-- BGE, signed (R267). -/
def execBge (rs1 rs2 : RegIdx) (off : BitVec 13) (s : State) :
    Host.Outcome State Fault Refusal :=
  runInstr (.bge rs1 rs2 off) (bundleBranch .ge false rs1 rs2 off) s

/-- BLTU, unsigned (R268). -/
def execBltu (rs1 rs2 : RegIdx) (off : BitVec 13) (s : State) :
    Host.Outcome State Fault Refusal :=
  runInstr (.bltu rs1 rs2 off) (bundleBranch .lt true rs1 rs2 off) s

/-- BGEU, unsigned (R269). -/
def execBgeu (rs1 rs2 : RegIdx) (off : BitVec 13) (s : State) :
    Host.Outcome State Fault Refusal :=
  runInstr (.bgeu rs1 rs2 off) (bundleBranch .ge true rs1 rs2 off) s

end Sys2Proof.Machine
end

