-- ==== Sys2Proof/Machine/Step.lean ====
section
/-! DEFINITION. One step: one cycle of the controller's loop (41_execution_cycle.md R170, R177). -/

namespace Sys2Proof.Machine

/-- Whether the loop starts another cycle: `power` = 1 and `status` = RUNNING (R170; 10_state.md
R31). -/
def State.isRunning (s : State) : Bool := s.power && decide (s.status = .running)

/-- One cycle (R177): fetch, decode, and the instruction's meaning. A word that the decoder rejects
raises `InvalidArgument` in Decode (60_exceptions.md R342). A unit that has halted runs no cycle. -/
def step (s : State) : Host.Outcome State Fault Refusal :=
  if s.isRunning then
    match fetchStage s with
    | .error t => .next t
    | .ok (s1, w) =>
      match decode w with
      | none => .next (s1.decodeFault .invalidArgument w none)
      | some i => exec i s1
  else .fault .notRunning

/-- `s` with the instruction `w`, its bits from `nbits` on zero, stored at the next fetch address: the
image load of one word (log entry 7). Nothing but those four bytes of memory changes. -/
def State.withFetchWord (s : State) (nbits w : Nat) : State :=
  s.placeWord s.nextPc (BitVec.ofNat 32 (w % 2 ^ nbits))

end Sys2Proof.Machine
end

