-- ==== Sys2Proof/Machine/Pseudo.lean ====
section
/-! DEFINITION. The assembler's names: the pseudo-instructions of 30_encoding.md R120, which have no
meaning of their own, and the ABI names of the registers (10_state.md R21). -/

namespace Sys2Proof.Machine

/-- The upper 20 bits that `lui` or `auipc` takes for `v` (R120): `((v + 0x800) >> 12) & 0xFFFFF`. -/
def hi20 (v : Word) : BitVec 20 := (v + 0x800#32).extractLsb' 12 20
/-- The lower 12 bits of `v`, which the next instruction adds sign-extended (R120). -/
def lo12 (v : Word) : BitVec 12 := v.extractLsb' 0 12

/-- The pseudo-instructions of R120; `la` takes the symbol's distance from its own address. -/
inductive Pseudo where
  | nop
  | li (rd : RegIdx) (imm : Word)
  | mv (rd rs : RegIdx)
  | not (rd rs : RegIdx)
  | neg (rd rs : RegIdx)
  | seqz (rd rs : RegIdx)
  | snez (rd rs : RegIdx)
  | sltz (rd rs : RegIdx)
  | sgtz (rd rs : RegIdx)
  | beqz (rs : RegIdx) (off : BitVec 13)
  | bnez (rs : RegIdx) (off : BitVec 13)
  | blez (rs : RegIdx) (off : BitVec 13)
  | bgez (rs : RegIdx) (off : BitVec 13)
  | bltz (rs : RegIdx) (off : BitVec 13)
  | bgtz (rs : RegIdx) (off : BitVec 13)
  | bgt (rs rt : RegIdx) (off : BitVec 13)
  | ble (rs rt : RegIdx) (off : BitVec 13)
  | bgtu (rs rt : RegIdx) (off : BitVec 13)
  | bleu (rs rt : RegIdx) (off : BitVec 13)
  | j (off : BitVec 21)
  | jal (off : BitVec 21)
  | jr (rs : RegIdx)
  | jalr (rs : RegIdx)
  | ret
  | call (off : Word)
  | tail (off : Word)
  | la (rd : RegIdx) (distance : Word)
  | fence
deriving DecidableEq, Repr

/-- The expansions of R120. `li` takes one instruction when the value is its own low 12 bits,
sign-extended, that is -2048 to 2047. -/
def Pseudo.expand : Pseudo → List Instr
  | .nop => [.addi 0 0 0#12]
  | .li rd imm =>
    if (lo12 imm).signExtend 32 = imm then [.addi rd 0 (lo12 imm)]
    else [.lui rd (hi20 imm), .addi rd rd (lo12 imm)]
  | .mv rd rs => [.addi rd rs 0#12]
  | .not rd rs => [.xori rd rs (-1#12)]
  | .neg rd rs => [.sub rd 0 rs]
  | .seqz rd rs => [.sltiu rd rs 1#12]
  | .snez rd rs => [.sltu rd 0 rs]
  | .sltz rd rs => [.slt rd rs 0]
  | .sgtz rd rs => [.slt rd 0 rs]
  | .beqz rs off => [.beq rs 0 off]
  | .bnez rs off => [.bne rs 0 off]
  | .blez rs off => [.bge 0 rs off]
  | .bgez rs off => [.bge rs 0 off]
  | .bltz rs off => [.blt rs 0 off]
  | .bgtz rs off => [.blt 0 rs off]
  | .bgt rs rt off => [.blt rt rs off]
  | .ble rs rt off => [.bge rt rs off]
  | .bgtu rs rt off => [.bltu rt rs off]
  | .bleu rs rt off => [.bgeu rt rs off]
  | .j off => [.jal 0 off]
  | .jal off => [.jal 1 off]
  | .jr rs => [.jalr 0 rs 0#12]
  | .jalr rs => [.jalr 1 rs 0#12]
  | .ret => [.jalr 0 1 0#12]
  | .call off => [.auipc 1 (hi20 off), .jalr 1 1 (lo12 off)]
  | .tail off => [.auipc 6 (hi20 off), .jalr 0 6 (lo12 off)]
  | .la rd d => [.auipc rd (hi20 d), .addi rd rd (lo12 d)]
  | .fence => [.fence 0x01FE0#17 0#5]

/-- The standard ABI names, aliases that change no behaviour (R21). -/
def abiNames : List String :=
  ["zero", "ra", "sp", "gp", "tp", "t0", "t1", "t2", "s0", "s1",
   "a0", "a1", "a2", "a3", "a4", "a5", "a6", "a7", "s2", "s3",
   "s4", "s5", "s6", "s7", "s8", "s9", "s10", "s11", "t3", "t4",
   "t5", "t6"]

end Sys2Proof.Machine
end

