-- ==== Sys2Proof/Machine/Loop.lean ====
section
/-! DEFINITION. The controller's loop as the host runs it (70_reset_and_hazards.md R371, R374, R378). -/

namespace Sys2Proof.Machine

/-- At most `n` cycles of the loop, which stops when the unit halts (R374): the host's `step` repeated
while `status` = RUNNING (R378). What it returns is the final state, which a halted unit keeps
(60_exceptions.md R359). -/
def hostRun : Nat → State → State
  | 0, s => s
  | n + 1, s =>
    match step s with
    | .next t => hostRun n t
    | .fault _ => s
    | .refused _ => s

end Sys2Proof.Machine
end

