-- ==== Sys2Proof/Safety.lean ====
section
/-! DEFINITION. What counts as a safe state, and the invariant of the unit, in the terms claims use. -/

namespace Sys2Proof.Machine

/-- A safe state: no fault has ended the run. A clean halt (EBREAK) is safe. -/
def State.safe (s : State) : Bool :=
  match s.status with
  | .running | .haltedEbreak => true
  | .faulted _ => false

/-- The fields a fault's record sets, and the stages that raise it (60_exceptions.md R341): `internal`
is raised by nothing (R345), and no read of x0 is uninitialised (40_datapath_units.md R157). -/
def FaultRecord.wf (r : FaultRecord) : Bool :=
  match r.kind with
  | .invalidArgument | .envCall =>
    decide (r.stage = .decode) && r.word.isSome && r.addr.isNone && r.reg.isNone
  | .uninitRegRead =>
    decide (r.stage = .decode) && r.word.isSome && r.addr.isNone && r.reg.isSome
      && decide (r.reg ≠ some 0)
  | .outOfRange | .failedPrecondition | .consoleRead | .uninitMemRead =>
    ((decide (r.stage = .fetch) && r.word.isNone) || (decide (r.stage = .memory) && r.word.isSome))
      && r.addr.isSome && r.reg.isNone
  | .internal => false

/-- `status`, `power` and the fault record agree (60_exceptions.md R349, R351; 10_state.md R30): a
running unit has power and no record, a clean halt has no power and no record, and a fault leaves the
power on and a record of its own kind at the current `pc`. -/
def State.haltConsistent (s : State) : Bool :=
  match s.status with
  | .running => s.power && s.fault.isNone
  | .haltedEbreak => !s.power && s.fault.isNone
  | .faulted k =>
    match s.fault with
    | none => false
    | some r => s.power && decide (r.kind = k) && decide (r.pc = s.pc) && r.wf

/-- The invariant of the unit. -/
structure State.Inv (s : State) : Prop where
  /-- Memory is in its canonical form. -/
  memory : Memory.wf s.mem
  /-- Every written byte lies in memory (20_memory.md R50). -/
  bounds : ∀ c ∈ s.mem, c.1 < s.cfg.memSize
  /-- The storage of x0 is 0 (10_state.md R22). -/
  zero : s.x[(0 : RegIdx)] = 0#32
  /-- x0 counts as written (R36). -/
  zeroWritten : s.regWritten[(0 : RegIdx)] = true
  /-- Status, power and record agree. -/
  halt : s.haltConsistent = true

end Sys2Proof.Machine
end

