-- ==== Sys2Proof/Certificates/Slice0/Obligations.lean ====
section
/-! DEFINITION. The statements about the model, for the provers. The helpers before them are spelled
out from the rules, not from the model's own operations, wherever the two could differ. -/

namespace Sys2Proof.Claims

open Sys2Proof.Machine

/-! ## Conditions and next states, spelled from the rules -/

/-- Register `r` can be read: it is x0, it has been written, or `P_UNINIT_REG` = draw
(40_datapath_units.md R157). -/
abbrev Readable (s : State) (r : RegIdx) : Prop :=
  r = 0 ∨ s.regWritten[r] = true ∨ s.cfg.uninitReg = .draw

/-- The state after x[rd] takes `v`: nothing is written when rd = 0 (R151, R157). -/
def withDest (s : State) (rd : RegIdx) (v : Word) : State :=
  if rd = 0 then s
  else { s with x := s.x.set rd.val v rd.isLt, regWritten := s.regWritten.set rd.val true rd.isLt }

/-- The latches of a cycle whose next fetch is at `pc + 4` (41_execution_cycle.md R173). -/
def goOn (s : State) (r : Word) : State := { s with pcSelLatch := .pc4, aluLatch := r }

/-- The latches of a cycle whose next fetch is at `target`. -/
def goTo (s : State) (target : Word) : State := { s with pcSelLatch := .alu, aluLatch := target }

/-- An ALU result `r` written to rd, the next fetch at `pc + 4`: nothing else changes. -/
def aluWrites (s : State) (rd : RegIdx) (r : Word) : State := withDest (goOn s r) rd r

/-- The state of a fault (60_exceptions.md R349). -/
def faultedAs (s : State) (k : FaultKind) (st : Stage) (word addr : Option Word)
    (reg : Option RegIdx) : State :=
  { s with
    status := .faulted k
    fault := some { kind := k, stage := st, pc := s.pc, word := word, addr := addr, reg := reg } }

/-- `UninitRegRead` of register `r` by instruction `i` (R349). -/
def uninitReg (s : State) (i : Instr) (r : RegIdx) : State :=
  faultedAs s .uninitRegRead .decode (some (encode i)) none (some r)

/-- A word that the decoder rejects, on every machine: fetched, it raises `InvalidArgument` in Decode and
changes nothing but `pc` (60_exceptions.md R342). -/
def Illegal (w : Word) : Prop :=
  decode w = none ∧ (∀ p, decodeBundle p w = none) ∧
  ∀ s : State, s.isRunning = true → s.busRead s.nextPc .word false = .ok w →
    step s = .next (faultedAs { s with pc := s.nextPc } .invalidArgument .decode (some w) none none)

/-- The console range (20_memory.md R51). -/
abbrev AtConsole (c : Config) (a : Word) : Prop :=
  c.conBase.toNat ≤ a.toNat ∧ a.toNat < c.conBase.toNat + c.conSize

/-- All `n` bytes at `a` have been written (R62). -/
abbrev AllWritten (s : State) (a n : Nat) : Prop := ∀ i < n, (s.mem.get? (a + i)).isSome = true

/-- The first failing check of an `n`-byte read at `a`, in the bus's order (R57, R58). -/
def readFault (s : State) (a : Word) (n : Nat) : Option FaultKind :=
  if AtConsole s.cfg a then some .consoleRead
  else if a.toNat + n > s.cfg.memSize then some .outOfRange
  else if a.toNat % n ≠ 0 then some .failedPrecondition
  else if s.cfg.uninitMem = .fault ∧ ¬ AllWritten s a.toNat n then some .uninitMemRead
  else none

/-- The first failing check of an `n`-byte write at `a`, in the bus's order (R59). -/
def writeFault (c : Config) (a : Word) (n : Nat) : Option FaultKind :=
  if AtConsole c a then if a.toNat % n ≠ 0 then some .failedPrecondition else none
  else if a.toNat + n > c.memSize then some .outOfRange
  else if a.toNat % n ≠ 0 then some .failedPrecondition
  else none

/-- `t` differs from `s` in memory alone, and there in the `n` bytes from `a`, which hold the low bytes
of `v`, the least significant first (R53, R59): every other byte is as before. -/
def StoresBytes (s t : State) (a n : Nat) (v : Word) : Prop :=
  t = { s with mem := t.mem } ∧
    ∀ b, t.mem.get? b =
      if a ≤ b ∧ b < a + n then some (BitVec.ofNat 8 (v.toNat / 2 ^ (8 * (b - a)))) else s.mem.get? b

/-- What the next cycle does when its fetch address is `a` and the read faults (41_execution_cycle.md
R171, R182): `pc` is `a`, and the fault names `a`. -/
def FetchAtFaults (t : State) (a : Word) : Prop :=
  t.nextPc = a ∧ ∀ k, readFault t a 4 = some k →
    step t = .next (faultedAs { t with pc := a } k .fetch none (some a) none)

/-! ## The shapes of the instructions' rules -/

/-- A class-R instruction: its encoding (30_encoding.md R93, R104), its result, and its faults
(42_alu_register.md R200). -/
def RegReg (mk : RegIdx → RegIdx → RegIdx → Instr) (f7 : BitVec 7) (f3 : BitVec 3)
    (f : Word → Word → Word) : Prop :=
  ∀ (rd rs1 rs2 : RegIdx) (s : State),
    encode (mk rd rs1 rs2) = BitVec.ofNat 32 (0b0110011 + rd.val * 2 ^ 7 + f3.toNat * 2 ^ 12
      + rs1.val * 2 ^ 15 + rs2.val * 2 ^ 20 + f7.toNat * 2 ^ 25) ∧
    (s.power = true → Readable s rs1 → Readable s rs2 →
      exec (mk rd rs1 rs2) s = .next (aluWrites s rd (f (s.regValue rs1) (s.regValue rs2)))) ∧
    (¬ Readable s rs1 → exec (mk rd rs1 rs2) s = .next (uninitReg s (mk rd rs1 rs2) rs1)) ∧
    (Readable s rs1 → ¬ Readable s rs2 →
      exec (mk rd rs1 rs2) s = .next (uninitReg s (mk rd rs1 rs2) rs2))

/-- A class-I instruction with a 12-bit immediate: encoding (R93, R105), result and fault
(43_alu_immediate_upper.md R230). The immediate is sign-extended from bit 11. -/
def RegImm (mk : RegIdx → RegIdx → BitVec 12 → Instr) (f3 : BitVec 3)
    (f : Word → Word → Word) : Prop :=
  ∀ (rd rs1 : RegIdx) (imm : BitVec 12) (s : State),
    encode (mk rd rs1 imm) = BitVec.ofNat 32 (0b0010011 + rd.val * 2 ^ 7 + f3.toNat * 2 ^ 12
      + rs1.val * 2 ^ 15 + imm.toNat * 2 ^ 20) ∧
    (s.power = true → Readable s rs1 →
      exec (mk rd rs1 imm) s =
        .next (aluWrites s rd (f (s.regValue rs1) (BitVec.ofInt 32 imm.toInt)))) ∧
    (¬ Readable s rs1 → exec (mk rd rs1 imm) s = .next (uninitReg s (mk rd rs1 imm) rs1))

/-- A shift by an immediate: encoding (R93, R107), result and fault. -/
def ShiftImm (mk : RegIdx → RegIdx → BitVec 5 → Instr) (top : BitVec 7) (f3 : BitVec 3)
    (f : Word → Nat → Word) : Prop :=
  ∀ (rd rs1 : RegIdx) (shamt : BitVec 5) (s : State),
    encode (mk rd rs1 shamt) = BitVec.ofNat 32 (0b0010011 + rd.val * 2 ^ 7 + f3.toNat * 2 ^ 12
      + rs1.val * 2 ^ 15 + shamt.toNat * 2 ^ 20 + top.toNat * 2 ^ 25) ∧
    (s.power = true → Readable s rs1 →
      exec (mk rd rs1 shamt) s = .next (aluWrites s rd (f (s.regValue rs1) shamt.toNat))) ∧
    (¬ Readable s rs1 → exec (mk rd rs1 shamt) s = .next (uninitReg s (mk rd rs1 shamt) rs1))

/-- The shifts by `k` in 0..31 (00_scope.md R9), on integers. -/
def shiftLeft (a : Word) (k : Nat) : Word := BitVec.ofNat 32 (a.toNat * 2 ^ k)
def shiftRightLogical (a : Word) (k : Nat) : Word := BitVec.ofNat 32 (a.toNat / 2 ^ k)
def shiftRightArith (a : Word) (k : Nat) : Word := BitVec.ofInt 32 (a.toInt / 2 ^ k)

/-- A branch: its words (30_encoding.md R110), result and faults (44_control_transfer.md R263). The
condition holds: the next fetch is at `pc` plus the offset, and may fault there (the late fault is the spec's
decision D7, and R182 is marked derived); it does not hold: the next fetch is at `pc + 4`. The ALU has computed
the target in both cases. No register or memory is written. -/
def Branch (mk : RegIdx → RegIdx → BitVec 13 → Instr) (f3 : BitVec 3)
    (cond : Word → Word → Prop) : Prop :=
  (∀ w : Word, opcodeField w = 0b1100011#7 → funct3Field w = f3 →
    decode w = some (mk (rs1Field w) (rs2Field w) (rawB w)) ∧
    immB w = BitVec.ofInt 32 (rawB w).toInt) ∧
  ∀ (rs1 rs2 : RegIdx) (off : BitVec 13) (s : State),
    (s.power = true → Readable s rs1 → Readable s rs2 →
      let target := s.pc + BitVec.ofInt 32 off.toInt
      (cond (s.regValue rs1) (s.regValue rs2) →
        exec (mk rs1 rs2 off) s = .next (goTo s target) ∧
        (s.isRunning = true → FetchAtFaults (goTo s target) target)) ∧
      (¬ cond (s.regValue rs1) (s.regValue rs2) →
        exec (mk rs1 rs2 off) s = .next (goOn s target) ∧ (goOn s target).nextPc = s.pc + 4#32)) ∧
    (¬ Readable s rs1 → exec (mk rs1 rs2 off) s = .next (uninitReg s (mk rs1 rs2 off) rs1)) ∧
    (Readable s rs1 → ¬ Readable s rs2 →
      exec (mk rs1 rs2 off) s = .next (uninitReg s (mk rs1 rs2 off) rs2))

/-- A load of `n` bytes: encoding (R93, R108), result and faults in their order (45_load_store.md
R290). `value` gives the word from the state and the address. -/
def Load (mk : RegIdx → RegIdx → BitVec 12 → Instr) (f3 : BitVec 3) (n : Nat)
    (value : State → Nat → Word) : Prop :=
  ∀ (rd rs1 : RegIdx) (off : BitVec 12) (s : State),
    let ea := s.regValue rs1 + BitVec.ofInt 32 off.toInt
    encode (mk rd rs1 off) = BitVec.ofNat 32 (0b0000011 + rd.val * 2 ^ 7 + f3.toNat * 2 ^ 12
      + rs1.val * 2 ^ 15 + off.toNat * 2 ^ 20) ∧
    (s.power = true → Readable s rs1 → readFault s ea n = none →
      exec (mk rd rs1 off) s = .next (withDest (goOn s ea) rd (value s ea.toNat))) ∧
    (¬ Readable s rs1 → exec (mk rd rs1 off) s = .next (uninitReg s (mk rd rs1 off) rs1)) ∧
    (∀ k, Readable s rs1 → readFault s ea n = some k →
      exec (mk rd rs1 off) s =
        .next (faultedAs (goOn s ea) k .memory (some (encode (mk rd rs1 off))) (some ea) none))

/-- A store of `n` bytes: its words (R109), effect and faults (45_load_store.md R296). A store into
the console range emits the low byte and writes no memory (20_memory.md R60). -/
def Store (mk : RegIdx → RegIdx → BitVec 12 → Instr) (f3 : BitVec 3) (n : Nat) : Prop :=
  (∀ w : Word, opcodeField w = 0b0100011#7 → funct3Field w = f3 →
    decode w = some (mk (rs1Field w) (rs2Field w) (rawS w)) ∧
    immS w = BitVec.ofInt 32 (rawS w).toInt) ∧
  ∀ (rs1 rs2 : RegIdx) (off : BitVec 12) (s : State),
    let ea := s.regValue rs1 + BitVec.ofInt 32 off.toInt
    (s.power = true → Readable s rs1 → Readable s rs2 → writeFault s.cfg ea n = none →
      ¬ AtConsole s.cfg ea →
      ∃ t, exec (mk rs1 rs2 off) s = .next t ∧
        StoresBytes (goOn s ea) t ea.toNat n (s.regValue rs2)) ∧
    (s.power = true → Readable s rs1 → Readable s rs2 → writeFault s.cfg ea n = none →
      AtConsole s.cfg ea →
      exec (mk rs1 rs2 off) s =
        .next { goOn s ea with consoleOut := s.consoleOut ++ [(s.regValue rs2).setWidth 8] }) ∧
    (¬ Readable s rs1 → exec (mk rs1 rs2 off) s = .next (uninitReg s (mk rs1 rs2 off) rs1)) ∧
    (Readable s rs1 → ¬ Readable s rs2 →
      exec (mk rs1 rs2 off) s = .next (uninitReg s (mk rs1 rs2 off) rs2)) ∧
    (∀ k, Readable s rs1 → Readable s rs2 → writeFault s.cfg ea n = some k →
      exec (mk rs1 rs2 off) s =
        .next (faultedAs (goOn s ea) k .memory (some (encode (mk rs1 rs2 off))) (some ea) none))

/-- The four instructions that need `P_SLT` = present (30_encoding.md R121). -/
def needsSlt : Instr → Bool
  | .slt _ _ _ | .sltu _ _ _ | .slti _ _ _ | .sltiu _ _ _ => true
  | _ => false

/-- The destination register of an instruction, for the classes that have one (10_state.md R23). -/
def destOf : Instr → Option RegIdx
  | .add rd _ _ | .sub rd _ _ | .sll rd _ _ | .slt rd _ _ | .sltu rd _ _ | .xor rd _ _
  | .srl rd _ _ | .sra rd _ _ | .or rd _ _ | .and rd _ _ => some rd
  | .addi rd _ _ | .slti rd _ _ | .sltiu rd _ _ | .xori rd _ _ | .ori rd _ _ | .andi rd _ _
  | .slli rd _ _ | .srli rd _ _ | .srai rd _ _ => some rd
  | .lui rd _ | .auipc rd _ | .jal rd _ | .jalr rd _ _ => some rd
  | .lb rd _ _ | .lh rd _ _ | .lw rd _ _ | .lbu rd _ _ | .lhu rd _ _ => some rd
  | .beq _ _ _ | .bne _ _ _ | .blt _ _ _ | .bge _ _ _ | .bltu _ _ _ | .bgeu _ _ _ => none
  | .sb _ _ _ | .sh _ _ _ | .sw _ _ _ | .fence _ _ | .ecall | .ebreak => none

/-- The registers an instruction reads (30_encoding.md R96). -/
def sourcesOf : Instr → List RegIdx
  | .add _ a b | .sub _ a b | .sll _ a b | .slt _ a b | .sltu _ a b | .xor _ a b
  | .srl _ a b | .sra _ a b | .or _ a b | .and _ a b => [a, b]
  | .addi _ a _ | .slti _ a _ | .sltiu _ a _ | .xori _ a _ | .ori _ a _ | .andi _ a _
  | .slli _ a _ | .srli _ a _ | .srai _ a _ => [a]
  | .lui _ _ | .auipc _ _ | .jal _ _ => []
  | .jalr _ a _ => [a]
  | .lb _ a _ | .lh _ a _ | .lw _ a _ | .lbu _ a _ | .lhu _ a _ => [a]
  | .beq a b _ | .bne a b _ | .blt a b _ | .bge a b _ | .bltu a b _ | .bgeu a b _ => [a, b]
  | .sb a b _ | .sh a b _ | .sw a b _ => [a, b]
  | .fence _ _ | .ecall | .ebreak => []

/-- The stores, class S. -/
def isStore : Instr → Bool
  | .sb _ _ _ | .sh _ _ _ | .sw _ _ _ => true
  | _ => false

/-- The next fetch address of 41_execution_cycle.md R180, from the state the instruction starts in. -/
def nextFetch (s : State) : Instr → Word
  | .jal _ off => s.pc + off.signExtend 32
  | .jalr _ rs1 off => s.regValue rs1 + off.signExtend 32
  | .beq a b off => if s.regValue a = s.regValue b then s.pc + off.signExtend 32 else s.pc + 4#32
  | .bne a b off => if s.regValue a ≠ s.regValue b then s.pc + off.signExtend 32 else s.pc + 4#32
  | .blt a b off =>
    if (s.regValue a).toInt < (s.regValue b).toInt then s.pc + off.signExtend 32 else s.pc + 4#32
  | .bge a b off =>
    if (s.regValue a).toInt < (s.regValue b).toInt then s.pc + 4#32 else s.pc + off.signExtend 32
  | .bltu a b off =>
    if (s.regValue a).toNat < (s.regValue b).toNat then s.pc + off.signExtend 32 else s.pc + 4#32
  | .bgeu a b off =>
    if (s.regValue a).toNat < (s.regValue b).toNat then s.pc + 4#32 else s.pc + off.signExtend 32
  | _ => s.pc + 4#32

/-- Runs instructions one after another, each at the address the one before it leaves, for the
expansions of pseudo-instructions (30_encoding.md R120). -/
def runList : List Instr → State → Option State
  | [], s => some s
  | i :: is, s =>
    match exec i { s with pc := s.nextPc } with
    | .next t => runList is t
    | .fault _ => none
    | .refused _ => none

end Sys2Proof.Claims

open Sys2Proof Sys2Proof.Machine Sys2Proof.Claims

/-! # Encoding -/

/-- Words of 95_test_vectors.md decode to the instructions they stand for, at least one of each class,
and words it calls illegal decode to nothing. -/
def Obligations.DecodeReadsWrittenOutWords : Prop :=
  decode 0x002081B3#32 = some (.add 3 1 2) ∧ decode 0x402081B3#32 = some (.sub 3 1 2) ∧
  decode 0xFFF08093#32 = some (.addi 1 1 (-1#12)) ∧ decode 0x41C0D193#32 = some (.srai 3 1 28#5) ∧
  decode 0x123452B7#32 = some (.lui 5 0x12345#20) ∧ decode 0x00001297#32 = some (.auipc 5 1#20) ∧
  decode 0xFF9FF06F#32 = some (.jal 0 (-8#21)) ∧ decode 0xFFC100E7#32 = some (.jalr 1 2 (-4#12)) ∧
  decode 0xFE009EE3#32 = some (.bne 1 0 (-4#13)) ∧ decode 0xFFC0A183#32 = some (.lw 3 1 (-4#12)) ∧
  decode 0x00209123#32 = some (.sh 1 2 2#12) ∧ decode 0x0FF0000F#32 = some (.fence 0x1FE0#17 0#5) ∧
  decode 0x00000073#32 = some .ecall ∧ decode 0x00100073#32 = some .ebreak ∧
  decode 0x022081B3#32 = none ∧ decode 0x0000100F#32 = none ∧ decode 0x30200073#32 = none ∧
  decode 0x00000000#32 = none

/-- Every well-formed instruction is what its own word decodes to. -/
def Obligations.DecodeOfEncodeGivesInstruction : Prop :=
  ∀ i : Instr, i.wf = true → decode (encode i) = some i

/-- No bit of a decodable word is lost: encoding what it decodes to gives it back. For FENCE this rests on
log entry 9 (DESIGN CHOICE): the bits that R112 only says are ignored are kept as operands. -/
def Obligations.EncodeOfDecodeGivesWord : Prop :=
  ∀ (w : Word) (i : Instr), decode w = some i → encode i = w ∧ i.wf = true

/-- R121: the decodable words are those of the 40 rows, each word of at most one row, the set-less-than
rows only under `P_SLT` = present, and any other word raises `InvalidArgument`. -/
def Obligations.DecodableWordsAreTheTableRows : Prop :=
  opcodeTable.length = 40 ∧
  (∀ (p : SltParam) (w : Word), (decodeBundle p w).isSome = true ↔
    ∃ row ∈ opcodeTable, w &&& row.mask = row.pattern ∧
      (p = .present ∨ row.mnemonic ∉ ["SLT", "SLTU", "SLTI", "SLTIU"])) ∧
  (∀ (w : Word) (i : Instr), decode w = some i →
    ∃ row ∈ opcodeTable, row.mnemonic = i.mnemonic ∧ w &&& row.mask = row.pattern) ∧
  (∀ (w : Word), ∀ row ∈ opcodeTable, ∀ row' ∈ opcodeTable,
    w &&& row.mask = row.pattern → w &&& row'.mask = row'.pattern → row = row') ∧
  (∀ (s : State) (w : Word), s.isRunning = true → s.busRead s.nextPc .word false = .ok w →
    decodeBundle s.cfg.slt w = none →
    step s = .next (faultedAs { s with pc := s.nextPc } .invalidArgument .decode (some w) none none))

/-- R97, R98, R100: every bit of the I-, S- and U-immediates, their ranges and the classes that use
them. -/
def Obligations.ImmediateBitsISU : Prop :=
  ∀ w : Word,
    (∀ j < 32, (immI w).getLsbD j = w.getLsbD (if j < 11 then 20 + j else 31)) ∧
    (∀ j < 32, (immS w).getLsbD j =
      w.getLsbD (if j < 5 then 7 + j else if j < 11 then 20 + j else 31)) ∧
    (∀ j < 32, (immU w).getLsbD j = (decide (12 ≤ j) && w.getLsbD j)) ∧
    (-2048 ≤ (immI w).toInt ∧ (immI w).toInt ≤ 2047) ∧
    (-2048 ≤ (immS w).toInt ∧ (immS w).toInt ≤ 2047) ∧
    immU w = w &&& 0xFFFFF000#32 ∧
    (∀ c, decodeImmediate c w = if c = .i ∨ c = .iLoad ∨ c = .iJalr then some (immI w)
      else if c = .s then some (immS w) else if c = .uLui ∨ c = .uAuipc then some (immU w)
      else if c = .b then some (immB w) else if c = .jJal then some (immJ w) else none)

/-- R99, R101: every bit of the branch and jump offsets, their ranges, their evenness and their
classes. -/
def Obligations.ImmediateBitsBJ : Prop :=
  ∀ w : Word,
    (∀ j < 32, (immB w).getLsbD j = (decide (0 < j) &&
      w.getLsbD (if j < 5 then 7 + j else if j < 11 then 20 + j else if j = 11 then 7 else 31))) ∧
    (∀ j < 32, (immJ w).getLsbD j = (decide (0 < j) &&
      w.getLsbD (if j < 11 then 20 + j else if j = 11 then 20 else if j < 20 then j else 31))) ∧
    (-4096 ≤ (immB w).toInt ∧ (immB w).toInt ≤ 4094 ∧ (immB w).toInt % 2 = 0) ∧
    (-1048576 ≤ (immJ w).toInt ∧ (immJ w).toInt ≤ 1048574 ∧ (immJ w).toInt % 2 = 0) ∧
    decodeImmediate .b w = some (immB w) ∧ decodeImmediate .jJal w = some (immJ w)

/-- R102: sign extension is OR with a mask of ones above the sign bit, at 11 for I and S, 12 for B and
20 for J; and the source's two examples. -/
def Obligations.SignExtensionIsOrWithMask : Prop :=
  (∀ w : Word,
    let orMask := fun (raw : Word) (p : Nat) =>
      raw ||| (if raw.getLsbD p then ~~~((1#32 <<< (p + 1)) - 1#32) else 0#32)
    immI w = orMask ((rawI w).setWidth 32) 11 ∧ immS w = orMask ((rawS w).setWidth 32) 11 ∧
    immB w = orMask ((rawB w).setWidth 32) 12 ∧ immJ w = orMask ((rawJ w).setWidth 32) 20) ∧
  (immI 0xFFF00093#32).toInt = -1 ∧ (immB 0xFE009EE3#32).toInt = -4

/-! # The ALU, the comparator and the register file -/

/-- R133 to R141: the ALU's nine operations on integers, with the source's examples. -/
def Obligations.AluNineOperations : Prop :=
  ∀ a b : Word,
    aluResult .passB a b = b ∧
    (aluResult .add a b).toNat = (a.toNat + b.toNat) % 2 ^ 32 ∧
    ((aluResult .sub a b).toNat : Int) = ((a.toNat : Int) - b.toNat) % 2 ^ 32 ∧
    (∀ j < 32, (aluResult .or a b).getLsbD j = (a.getLsbD j || b.getLsbD j)) ∧
    (∀ j < 32, (aluResult .and a b).getLsbD j = (a.getLsbD j && b.getLsbD j)) ∧
    (∀ j < 32, (aluResult .xor a b).getLsbD j = (a.getLsbD j ^^ b.getLsbD j)) ∧
    (aluResult .sll a b).toNat = a.toNat * 2 ^ (b.toNat % 32) % 2 ^ 32 ∧
    (aluResult .srl a b).toNat = a.toNat / 2 ^ (b.toNat % 32) ∧
    (aluResult .sra a b).toInt = a.toInt / 2 ^ (b.toNat % 32) ∧
    aluResult .add 5#32 7#32 = 12#32 ∧ aluResult .sub 5#32 7#32 = 0xFFFFFFFE#32 ∧
    aluResult .sll 1#32 33#32 = 2#32 ∧ aluResult .sll 1#32 1#32 = 2#32 ∧
    aluResult .srl 0x80000000#32 1#32 = 0x40000000#32 ∧
    aluResult .sra 0xFFFFFFF8#32 1#32 = 0xFFFFFFFC#32

/-- R143: the shifts read only the low 5 bits of operand B, and a shift by 0 returns operand A. -/
def Obligations.ShiftAmountIsMasked : Prop :=
  ∀ (op : AluOp) (a b b' : Word), op = .sll ∨ op = .srl ∨ op = .sra →
    (b.extractLsb' 0 5 = b'.extractLsb' 0 5 → aluResult op a b = aluResult op a b') ∧
    (b.extractLsb' 0 5 = 0#5 → aluResult op a b = a)

/-- R142: SLT and SLTU compare signed and unsigned, and under `P_SLT` = absent no word selects them. -/
def Obligations.AluSetLessThan : Prop :=
  (∀ a b : Word, aluResult .slt a b = (if a.toInt < b.toInt then 1#32 else 0#32) ∧
    aluResult .sltu a b = (if a.toNat < b.toNat then 1#32 else 0#32)) ∧
  (∀ (w : Word) (c : ControlBundle), decodeBundle .absent w = some c →
    c.aluOp ≠ .slt ∧ c.aluOp ≠ .sltu)

/-- The overflow output of R145 is exactly signed overflow (92_eei_decisions.md D16): the exact sum or
difference of the signed readings is not the signed reading of the result. -/
def Obligations.AluOverflowIsSignedOverflow : Prop :=
  ∀ a b : Word,
    ((alu .add a b).overflow = true ↔ (alu .add a b).result.toInt ≠ a.toInt + b.toInt) ∧
    ((alu .sub a b).overflow = true ↔ (alu .sub a b).result.toInt ≠ a.toInt - b.toInt) ∧
    (∀ op, op ≠ .add → op ≠ .sub → (alu op a b).overflow = false)

/-- R146: the comparator's two outputs, with the source's examples. -/
def Obligations.ComparatorEqualAndLess : Prop :=
  (∀ a b : Word,
    (∀ u, (compareWords u a b).equal = true ↔ a = b) ∧
    ((compareWords true a b).lessThan = true ↔ a.toNat < b.toNat) ∧
    ((compareWords false a b).lessThan = true ↔ a.toInt < b.toInt)) ∧
  compareWords false 0xFFFFFFFF#32 1#32 = { equal := false, lessThan := true } ∧
  compareWords true 0xFFFFFFFF#32 1#32 = { equal := false, lessThan := false }

/-- R157: what `RegRead` and `RegWrite` do, for every index, "none" and x0 included. -/
def Obligations.RegisterFileReadsAndWrites : Prop :=
  ∀ s : State,
    s.regRead none = .ok 0#32 ∧ s.regRead (some 0) = .ok 0#32 ∧
    (∀ r : RegIdx, r ≠ 0 → s.regRead (some r) =
      if s.regWritten[r] = true then .ok s.x[r]
      else match s.cfg.uninitReg with
        | .fault => .error .uninitRegRead
        | .draw => .ok s.cfg.regInit[r]) ∧
    (∀ v : Word, s.regWrite none v true = s ∧ s.regWrite (some 0) v true = s) ∧
    (∀ (i : Option RegIdx) (v : Word), s.regWrite i v false = s) ∧
    (∀ (r : RegIdx) (v : Word), r ≠ 0 → ∃ t, s.regWrite (some r) v true = t ∧
      t = { s with x := t.x, regWritten := t.regWritten } ∧
      ∀ q : RegIdx, t.x[q] = (if q = r then v else s.x[q]) ∧
        t.regWritten[q] = (if q = r then true else s.regWritten[q]))

/-! # The instructions -/

/-- R201, R202: ADD and SUB, modulo 2^32; any other funct7 is illegal. -/
def Obligations.AddAndSub : Prop :=
  RegReg .add 0b0000000#7 0b000#3 (fun a b => BitVec.ofNat 32 (a.toNat + b.toNat)) ∧
  RegReg .sub 0b0100000#7 0b000#3 (fun a b => BitVec.ofInt 32 (a.toInt - b.toInt)) ∧
  ∀ w : Word, opcodeField w = 0b0110011#7 → funct3Field w = 0b000#3 → funct7Field w ≠ 0b0000000#7 →
    funct7Field w ≠ 0b0100000#7 → Illegal w

/-- R206, R209, R210: XOR, OR and AND; any other funct7 is illegal. -/
def Obligations.XorOrAnd : Prop :=
  RegReg .xor 0b0000000#7 0b100#3 (fun a b => a ^^^ b) ∧
  RegReg .or 0b0000000#7 0b110#3 (fun a b => a ||| b) ∧
  RegReg .and 0b0000000#7 0b111#3 (fun a b => a &&& b) ∧
  ∀ w : Word, opcodeField w = 0b0110011#7 →
    funct3Field w = 0b100#3 ∨ funct3Field w = 0b110#3 ∨ funct3Field w = 0b111#3 →
    funct7Field w ≠ 0b0000000#7 → Illegal w

/-- R203, R207, R208: the shifts by a register, whose amount is the low 5 bits of x[rs2]; any other
funct7 is illegal. -/
def Obligations.ShiftsByRegister : Prop :=
  RegReg .sll 0b0000000#7 0b001#3 (fun a b => shiftLeft a (b.toNat % 32)) ∧
  RegReg .srl 0b0000000#7 0b101#3 (fun a b => shiftRightLogical a (b.toNat % 32)) ∧
  RegReg .sra 0b0100000#7 0b101#3 (fun a b => shiftRightArith a (b.toNat % 32)) ∧
  ∀ w : Word, opcodeField w = 0b0110011#7 →
    (funct3Field w = 0b001#3 ∧ funct7Field w ≠ 0b0000000#7) ∨
      (funct3Field w = 0b101#3 ∧ funct7Field w ≠ 0b0000000#7 ∧ funct7Field w ≠ 0b0100000#7) →
    Illegal w

/-- R204, R205, R232, R233: the set-less-than instructions. They complete under `P_SLT` = present and
raise `InvalidArgument` in Decode, before any register is read, under `absent`; any other funct7 is
illegal. -/
def Obligations.SetLessThanInstructions : Prop :=
  (∀ rd rs1 rs2 : RegIdx,
    encode (.slt rd rs1 rs2) = BitVec.ofNat 32 (0x00002033 + rd.val * 2 ^ 7 + rs1.val * 2 ^ 15
      + rs2.val * 2 ^ 20) ∧
    encode (.sltu rd rs1 rs2) = BitVec.ofNat 32 (0x00003033 + rd.val * 2 ^ 7 + rs1.val * 2 ^ 15
      + rs2.val * 2 ^ 20)) ∧
  (∀ (rd rs1 : RegIdx) (imm : BitVec 12),
    encode (.slti rd rs1 imm) = BitVec.ofNat 32 (0x00002013 + rd.val * 2 ^ 7 + rs1.val * 2 ^ 15
      + imm.toNat * 2 ^ 20) ∧
    encode (.sltiu rd rs1 imm) = BitVec.ofNat 32 (0x00003013 + rd.val * 2 ^ 7 + rs1.val * 2 ^ 15
      + imm.toNat * 2 ^ 20)) ∧
  (∀ w : Word, opcodeField w = 0b0110011#7 → funct3Field w = 0b010#3 ∨ funct3Field w = 0b011#3 →
    funct7Field w ≠ 0b0000000#7 → Illegal w) ∧
  (∀ (rd rs1 rs2 : RegIdx) (s : State), s.cfg.slt = .present → s.power = true →
    Readable s rs1 → Readable s rs2 →
    exec (.slt rd rs1 rs2) s = .next (aluWrites s rd
      (if (s.regValue rs1).toInt < (s.regValue rs2).toInt then 1#32 else 0#32)) ∧
    exec (.sltu rd rs1 rs2) s = .next (aluWrites s rd
      (if (s.regValue rs1).toNat < (s.regValue rs2).toNat then 1#32 else 0#32))) ∧
  (∀ (rd rs1 : RegIdx) (imm : BitVec 12) (s : State), s.cfg.slt = .present → s.power = true →
    Readable s rs1 →
    exec (.slti rd rs1 imm) s = .next (aluWrites s rd
      (if (s.regValue rs1).toInt < imm.toInt then 1#32 else 0#32)) ∧
    exec (.sltiu rd rs1 imm) s = .next (aluWrites s rd
      (if (s.regValue rs1).toNat < (BitVec.ofInt 32 imm.toInt).toNat then 1#32 else 0#32))) ∧
  (∀ (i : Instr) (s : State), needsSlt i = true → s.cfg.slt = .absent →
    exec i s = .next (faultedAs s .invalidArgument .decode (some (encode i)) none none)) ∧
  (∀ (i : Instr) (r : RegIdx) (s : State), needsSlt i = true → s.cfg.slt = .present →
    (sourcesOf i).find? (fun q => !decide (Readable s q)) = some r →
    exec i s = .next (uninitReg s i r))

/-- R231, R234, R235, R236: ADDI, XORI, ORI and ANDI on the sign-extended immediate. -/
def Obligations.ImmediateArithmeticAndLogic : Prop :=
  RegImm .addi 0b000#3 (fun a b => BitVec.ofNat 32 (a.toNat + b.toNat)) ∧
  RegImm .xori 0b100#3 (fun a b => a ^^^ b) ∧
  RegImm .ori 0b110#3 (fun a b => a ||| b) ∧
  RegImm .andi 0b111#3 (fun a b => a &&& b)

/-- R237, R238, R239: the shifts by an immediate; any other imm[11:5] is illegal. -/
def Obligations.ShiftsByImmediate : Prop :=
  ShiftImm .slli 0b0000000#7 0b001#3 shiftLeft ∧
  ShiftImm .srli 0b0000000#7 0b101#3 shiftRightLogical ∧
  ShiftImm .srai 0b0100000#7 0b101#3 shiftRightArith ∧
  ∀ w : Word, opcodeField w = 0b0010011#7 →
    (funct3Field w = 0b001#3 ∧ funct7Field w ≠ 0b0000000#7) ∨
      (funct3Field w = 0b101#3 ∧ funct7Field w ≠ 0b0000000#7 ∧ funct7Field w ≠ 0b0100000#7) →
    Illegal w

/-- R240, R241: LUI and AUIPC, which read no register; every word of their opcodes is valid. -/
def Obligations.LuiAndAuipc : Prop :=
  (∀ w : Word, immU w = BitVec.ofNat 32 ((rawU w).toNat * 2 ^ 12) ∧
    (opcodeField w = 0b0110111#7 → decode w = some (.lui (rdField w) (rawU w))) ∧
    (opcodeField w = 0b0010111#7 → decode w = some (.auipc (rdField w) (rawU w)))) ∧
  ∀ (rd : RegIdx) (imm : BitVec 20) (s : State), s.power = true →
    exec (.lui rd imm) s = .next (aluWrites s rd (BitVec.ofNat 32 (imm.toNat * 2 ^ 12))) ∧
    exec (.auipc rd imm) s =
      .next (aluWrites s rd (s.pc + BitVec.ofNat 32 (imm.toNat * 2 ^ 12)))

/-- R261, R262: JAL and JALR link `pc + 4` and go to the target, of which JALR clears no bit; a target
that cannot be fetched faults in the next cycle, after the link is written. -/
def Obligations.JalAndJalr : Prop :=
  (∀ w : Word, opcodeField w = 0b1101111#7 → decode w = some (.jal (rdField w) (rawJ w)) ∧
    immJ w = BitVec.ofInt 32 (rawJ w).toInt) ∧
  (∀ w : Word, opcodeField w = 0b1100111#7 → funct3Field w = 0b000#3 →
    decode w = some (.jalr (rdField w) (rs1Field w) (rawI w)) ∧
    immI w = BitVec.ofInt 32 (rawI w).toInt) ∧
  (∀ w : Word, opcodeField w = 0b1100111#7 → funct3Field w ≠ 0b000#3 → Illegal w) ∧
  (∀ (rd : RegIdx) (off : BitVec 21) (s : State), s.power = true →
    let target := s.pc + BitVec.ofInt 32 off.toInt
    exec (.jal rd off) s = .next (withDest (goTo s target) rd (s.pc + 4#32)) ∧
    (s.isRunning = true →
      FetchAtFaults (withDest (goTo s target) rd (s.pc + 4#32)) target)) ∧
  (∀ (rd rs1 : RegIdx) (off : BitVec 12) (s : State),
    let target := s.regValue rs1 + BitVec.ofInt 32 off.toInt
    (s.power = true → Readable s rs1 →
      exec (.jalr rd rs1 off) s = .next (withDest (goTo s target) rd (s.pc + 4#32)) ∧
      (s.isRunning = true →
        FetchAtFaults (withDest (goTo s target) rd (s.pc + 4#32)) target)) ∧
    (¬ Readable s rs1 → exec (.jalr rd rs1 off) s = .next (uninitReg s (.jalr rd rs1 off) rs1)))

/-- BEQ and BNE (R263 to R265). That a taken branch to a target that cannot be fetched faults in the next
cycle is the spec's decision D7 (R263; R182, marked derived). -/
def Obligations.BranchOnEquality : Prop :=
  Branch .beq 0b000#3 (fun a b => a = b) ∧ Branch .bne 0b001#3 (fun a b => a ≠ b)

/-- The ordered branches, signed and unsigned (R263, R266 to R269); the two other funct3 values of the class
are illegal. That a taken branch to a target that cannot be fetched faults in the next cycle is the spec's
decision D7 (R263; R182, marked derived). -/
def Obligations.BranchOnOrder : Prop :=
  Branch .blt 0b100#3 (fun a b => a.toInt < b.toInt) ∧
  Branch .bge 0b101#3 (fun a b => b.toInt ≤ a.toInt) ∧
  Branch .bltu 0b110#3 (fun a b => a.toNat < b.toNat) ∧
  Branch .bgeu 0b111#3 (fun a b => b.toNat ≤ a.toNat) ∧
  ∀ w : Word, opcodeField w = 0b1100011#7 → funct3Field w = 0b010#3 ∨ funct3Field w = 0b011#3 →
    Illegal w

/-- R291 to R295: the loads, with every fault in its order; a load to x0 is one of the forms;
the three other funct3 values are illegal. -/
def Obligations.Loads : Prop :=
  Load .lb 0b000#3 1 (fun s a => (s.byteAt a).signExtend 32) ∧
  Load .lh 0b001#3 2 (fun s a => (s.byteAt (a + 1) ++ s.byteAt a).signExtend 32) ∧
  Load .lw 0b010#3 4
    (fun s a => s.byteAt (a + 3) ++ s.byteAt (a + 2) ++ s.byteAt (a + 1) ++ s.byteAt a) ∧
  Load .lbu 0b100#3 1 (fun s a => (s.byteAt a).setWidth 32) ∧
  Load .lhu 0b101#3 2 (fun s a => (s.byteAt (a + 1) ++ s.byteAt a).setWidth 32) ∧
  ∀ w : Word, opcodeField w = 0b0000011#7 →
    funct3Field w = 0b011#3 ∨ funct3Field w = 0b110#3 ∨ funct3Field w = 0b111#3 → Illegal w

/-- R297 to R299: the stores, into memory and into the console, with every fault in its order; the five
other funct3 values are illegal. -/
def Obligations.Stores : Prop :=
  Store .sb 0b000#3 1 ∧ Store .sh 0b001#3 2 ∧ Store .sw 0b010#3 4 ∧
  ∀ w : Word, opcodeField w = 0b0100011#7 → 3 ≤ (funct3Field w).toNat → Illegal w

/-- R301: a load to x0 writes no register, and meets exactly the faults of the same load to any other
register. -/
def Obligations.LoadToZeroStillReads : Prop :=
  ∀ (mk : RegIdx → RegIdx → BitVec 12 → Instr),
    mk = .lb ∨ mk = .lh ∨ mk = .lw ∨ mk = .lbu ∨ mk = .lhu →
    ∀ (rd rs1 : RegIdx) (off : BitVec 12) (s t : State), exec (mk rd rs1 off) s = .next t →
      ∃ u, exec (mk 0 rs1 off) s = .next u ∧ u.status = t.status ∧ u.x = s.x ∧
        u.regWritten = s.regWritten ∧ u.mem = s.mem

/-- R320: FENCE reads and writes nothing and goes on at `pc + 4`, whatever its ignored bits; every word
of its opcode with funct3 = 000 is a FENCE, and every other one is illegal. -/
def Obligations.FenceIsANoOp : Prop :=
  (∀ w : Word, opcodeField w = 0b0001111#7 → funct3Field w = 0b000#3 →
    ∃ hi lo, decode w = some (.fence hi lo)) ∧
  (∀ w : Word, opcodeField w = 0b0001111#7 → funct3Field w ≠ 0b000#3 → Illegal w) ∧
  ∀ (hi : BitVec 17) (lo : BitVec 5) (s : State), s.power = true →
    exec (.fence hi lo) s = .next (goOn s 0#32) ∧ (goOn s 0#32).nextPc = s.pc + 4#32

/-- R321: ECALL, under both settings of `P_ECALL`; exactly one word spells it. -/
def Obligations.EcallBothSettings : Prop :=
  (∀ w : Word, decode w = some .ecall ↔ w = 0x00000073#32) ∧
  ∀ s : State,
    (s.cfg.ecall = .fault →
      exec .ecall s = .next (faultedAs s .envCall .decode (some 0x00000073#32) none none)) ∧
    (s.cfg.ecall = .nop → s.power = true →
      exec .ecall s = .next (goOn s 0#32) ∧ (goOn s 0#32).nextPc = s.pc + 4#32)

/-- R322: EBREAK completes its cycle and halts the unit for good; exactly one word spells it. -/
def Obligations.EbreakHalts : Prop :=
  (∀ w : Word, decode w = some .ebreak ↔ w = 0x00100073#32) ∧
  ∀ s : State,
    let t := { goOn s 0#32 with power := false, status := .haltedEbreak }
    exec .ebreak s = .next t ∧ ∀ n, hostRun n t = t

/-- R323: every other word of opcode 1110011 is illegal and raises `InvalidArgument` in Decode. -/
def Obligations.OtherSystemWordsAreIllegal : Prop :=
  ∀ w : Word, opcodeField w = 0b1110011#7 → w ≠ 0x00000073#32 → w ≠ 0x00100073#32 → Illegal w

/-! # The cycle -/

/-- A step runs the decoded instruction: when the four bytes at the next fetch address can be fetched
and spell instruction `i`, the step moves `pc` there and is `exec i`. -/
def Obligations.StepRunsDecodedInstruction : Prop :=
  ∀ (s : State) (i : Instr), s.isRunning = true → readFault s s.nextPc 4 = none →
    decode (wordOfBytes (s.byteAt s.nextPc.toNat) (s.byteAt (s.nextPc.toNat + 1))
      (s.byteAt (s.nextPc.toNat + 2)) (s.byteAt (s.nextPc.toNat + 3))) = some i →
    step s = exec i { s with pc := s.nextPc }

/-- R171: the Fetch stage moves `pc` first, to the address the PC multiplexer selects, and the move
stands when the read faults; the word is read whole, little-endian. -/
def Obligations.FetchMovesPcThenReads : Prop :=
  ∀ s : State,
    (s.pcSelLatch = .pc4 → s.nextPc = s.pc + 4#32) ∧ (s.pcSelLatch = .alu → s.nextPc = s.aluLatch) ∧
    (∀ k, s.isRunning = true → readFault s s.nextPc 4 = some k →
      step s =
        .next (faultedAs { s with pc := s.nextPc } k .fetch none (some s.nextPc) none)) ∧
    (readFault s s.nextPc 4 = none →
      fetchStage s = .ok ({ s with pc := s.nextPc },
        s.byteAt (s.nextPc.toNat + 3) ++ s.byteAt (s.nextPc.toNat + 2) ++
          s.byteAt (s.nextPc.toNat + 1) ++ s.byteAt s.nextPc.toNat))

/-- R342: a rejected word raises `InvalidArgument` in Decode and changes no register, memory or latch;
a word that this machine decodes never raises it. -/
def Obligations.RejectedWordRaisesInvalidArgument : Prop :=
  ∀ (s : State) (w : Word), s.isRunning = true → s.busRead s.nextPc .word false = .ok w →
    (decodeBundle s.cfg.slt w = none → step s =
      .next (faultedAs { s with pc := s.nextPc } .invalidArgument .decode (some w) none none)) ∧
    (decodeBundle s.cfg.slt w ≠ none →
      ∀ t, step s = .next t → t.status ≠ .faulted .invalidArgument)

/-- R180: the next fetch address after every instruction that does not fault or halt the unit. -/
def Obligations.NextFetchAddress : Prop :=
  ∀ (i : Instr) (s t : State), s.isRunning = true → exec i s = .next t → t.isRunning = true →
    t.nextPc = nextFetch s i

/-- R182, after the jump or taken branch: when an instruction has completed with a next fetch address that
is not a multiple of 4, JAL and JALR have written their link, and the next cycle loads the target into `pc` and
faults there: `ConsoleRead` or `OutOfRange` when the target is in the console or outside memory, else
`FailedPrecondition`. That the instruction completes is a hypothesis here; JalAndJalr, BranchOnEquality and
BranchOnOrder conclude it for every target. -/
def Obligations.MisalignedTargetFaultsAtNextFetch : Prop :=
  ∀ (i : Instr) (s t : State), s.isRunning = true → exec i s = .next t → t.isRunning = true →
    (nextFetch s i).toNat % 4 ≠ 0 →
    (∀ rd off, i = .jal rd off → t.regValue rd = if rd = 0 then 0#32 else s.pc + 4#32) ∧
    (∀ rd rs1 off, i = .jalr rd rs1 off → t.regValue rd = if rd = 0 then 0#32 else s.pc + 4#32) ∧
    step t = .next (faultedAs { t with pc := nextFetch s i }
      (if AtConsole s.cfg (nextFetch s i) then .consoleRead
        else if (nextFetch s i).toNat + 4 > s.cfg.memSize then .outOfRange
        else .failedPrecondition)
      .fetch none (some (nextFetch s i)) none)

/-- R181: every instruction computes from the register values before its own write; the source and
destination may be one register. -/
def Obligations.DestinationMayBeASource : Prop :=
  ∀ (r : RegIdx) (s : State), r ≠ 0 → s.power = true → Readable s r →
    (∃ t, exec (.addi r r (-1#12)) s = .next t ∧ t.regValue r = s.regValue r - 1#32) ∧
    (∃ t, exec (.add r r r) s = .next t ∧ t.regValue r = s.regValue r + s.regValue r) ∧
    (∃ t, exec (.jalr r r 0#12) s = .next t ∧ t.nextPc = s.regValue r ∧
      t.regValue r = s.pc + 4#32)

/-- A unit that has halted runs no cycle, and the loop leaves its state alone for good; a cycle starts
exactly when `power` = 1 and `status` = RUNNING (R170, R351, R359). -/
def Obligations.HaltedUnitRunsNoCycle : Prop :=
  ∀ s : State,
    (s.isRunning = true ↔ s.power = true ∧ s.status = .running) ∧
    (s.isRunning = false → step s = .fault .notRunning ∧ ∀ n, hostRun n s = s) ∧
    (s.isRunning = true → ∃ t, step s = .next t)

/-- The instruction decoder as a block and the instructions' own bundles agree: a word with a bundle
decodes to an instruction whose meaning runs exactly that bundle. That a set-less-than word still decodes under
`P_SLT` = absent, where R121 does not call it decodable, is log entry 10 (DEDUCED). -/
def Obligations.DecoderBlockRunsTheInstruction : Prop :=
  ∀ (s : State) (w : Word),
    (decodeBundle s.cfg.slt w = none ↔
      decode w = none ∨ ∃ i, decode w = some i ∧ needsSlt i = true ∧ s.cfg.slt = .absent) ∧
    (∀ b i, decodeBundle s.cfg.slt w = some b → decode w = some i →
      exec i s = .next (runBundle w b s))

/-- Headline: the step, which dispatches on instructions, is the five-stage cycle of R177, which runs
the control bundle that the decoder block makes from the word. -/
def Obligations.StepIsTheDatapathCycle : Prop :=
  ∀ s : State, s.isRunning = true → step s = .next (cycleState s)

/-! # The bus and memory -/

/-- R58: `BusRead`'s checks in their order, and every bit of the word it returns. -/
def Obligations.BusReadChecksAndValue : Prop :=
  ∀ (s : State) (a : Word) (n : Width) (g : Bool),
    (∀ k, readFault s a n.bytes = some k → s.busRead a n g = .error k) ∧
    (readFault s a n.bytes = none → ∃ v, s.busRead a n g = .ok v ∧
      ∀ j < 32, v.getLsbD j =
        if j < 8 * n.bytes then (s.byteAt (a.toNat + j / 8)).getLsbD (j % 8)
        else (g && decide (n.bytes < 4) && (s.byteAt (a.toNat + n.bytes - 1)).getLsbD 7))

/-- R59: `BusWrite`'s checks in their order, and what it writes: one console byte, or the low bytes of
the value and nothing else. -/
def Obligations.BusWriteChecksAndEffect : Prop :=
  ∀ (s : State) (a : Word) (n : Width) (v : Word),
    (∀ k, writeFault s.cfg a n.bytes = some k → s.busWrite a n v = .error k) ∧
    (writeFault s.cfg a n.bytes = none → AtConsole s.cfg a →
      s.busWrite a n v = .ok { s with consoleOut := s.consoleOut ++ [v.setWidth 8] }) ∧
    (writeFault s.cfg a n.bytes = none → ¬ AtConsole s.cfg a →
      ∃ t, s.busWrite a n v = .ok t ∧ StoresBytes s t a.toNat n.bytes v)

/-- R54: an access sees the bytes of earlier accesses of another width. -/
def Obligations.MixedWidthAccessesSeeBytes : Prop :=
  ∀ (s t : State) (a v : Word), ¬ AtConsole s.cfg a → ¬ AtConsole s.cfg (a + 1#32) →
    ¬ AtConsole s.cfg (a + 2#32) → ¬ AtConsole s.cfg (a + 3#32) →
    a.toNat + 4 ≤ s.cfg.memSize → a.toNat % 4 = 0 →
    (s.busWrite a .word v = .ok t →
      (∀ i < 4, t.busRead (a + BitVec.ofNat 32 i) .byte false =
        .ok ((v.extractLsb' (8 * i) 8).setWidth 32)) ∧
      t.busRead (a + 2#32) .half false = .ok ((v.extractLsb' 16 16).setWidth 32)) ∧
    (∀ b0 b1 b2 b3 : Byte, ∃ s1 s2 s3 s4,
      s.busWrite a .byte (b0.setWidth 32) = .ok s1 ∧
      s1.busWrite (a + 1#32) .byte (b1.setWidth 32) = .ok s2 ∧
      s2.busWrite (a + 2#32) .byte (b2.setWidth 32) = .ok s3 ∧
      s3.busWrite (a + 3#32) .byte (b3.setWidth 32) = .ok s4 ∧
      s4.busRead a .word false = .ok (b3 ++ b2 ++ b1 ++ b0))

/-- A store to the address of the next fetch is what the next cycle fetches: self-modifying code needs
no fence (R71, R376). -/
def Obligations.NextFetchSeesTheStore : Prop :=
  ∀ (rs1 rs2 : RegIdx) (off : BitVec 12) (s t : State), s.isRunning = true →
    exec (.sw rs1 rs2 off) s = .next t → t.isRunning = true → ¬ AtConsole s.cfg t.nextPc →
    t.nextPc = s.regValue rs1 + off.signExtend 32 →
    fetchStage t = .ok ({ t with pc := t.nextPc }, s.regValue rs2)

/-- A word placed at the next fetch address, where a fetch is allowed, is what the next cycle fetches,
and nothing but those four bytes has changed (the model's image load of one word, log entry 7). -/
def Obligations.PlacedWordIsTheNextFetch : Prop :=
  ∀ (s : State) (w : Nat), ¬ AtConsole s.cfg s.nextPc → s.nextPc.toNat + 4 ≤ s.cfg.memSize →
    s.nextPc.toNat % 4 = 0 → w < 2 ^ 32 →
    StoresBytes s (s.withFetchWord 32 w) s.nextPc.toNat 4 (BitVec.ofNat 32 w) ∧
    fetchStage (s.withFetchWord 32 w) =
      .ok ({ s.withFetchWord 32 w with pc := s.nextPc }, BitVec.ofNat 32 w)

/-! # Construction, image load and the invariant -/

/-- R38: the state after construction and image load, for every choice of parameters. Under
`P_UNINIT_REG` = draw a register never written reads `REG_INIT`, under fault its read faults; the same
of memory outside the image. -/
def Obligations.ResetState : Prop :=
  ∀ (c : Config) (image : List Byte) (s : State), boot c image = some s →
    s.cfg = c ∧ s.x[(0 : RegIdx)] = 0#32 ∧ s.pc = c.loadBase - 4#32 ∧ s.pcSelLatch = .pc4 ∧
    s.aluLatch = 0#32 ∧ s.power = true ∧ s.status = .running ∧ s.consoleOut = [] ∧
    s.nextPc = c.loadBase ∧
    (∀ r : RegIdx, s.regWritten[r] = decide (r = 0)) ∧
    (∀ r : RegIdx, r ≠ 0 → (c.uninitReg = .fault → s.regRead (some r) = .error .uninitRegRead) ∧
      (c.uninitReg = .draw → s.regRead (some r) = .ok c.regInit[r])) ∧
    (∀ i, (h : i < image.length) → s.mem.get? (c.loadBase.toNat + i) = some image[i]) ∧
    (∀ a, ¬ (c.loadBase.toNat ≤ a ∧ a < c.loadBase.toNat + image.length) →
      s.mem.get? a = none ∧ s.byteAt a = (Memory.get? c.memInit a).getD 0#8) ∧
    (∀ (a : Word) (n : Width) (g : Bool), ¬ AtConsole c a → a.toNat + n.bytes ≤ c.memSize →
      a.toNat % n.bytes = 0 → c.uninitMem = .fault →
      (∃ i < n.bytes, ¬ (c.loadBase.toNat ≤ a.toNat + i ∧
        a.toNat + i < c.loadBase.toNat + image.length)) →
      s.busRead a n g = .error .uninitMemRead)

/-- R73: the image loader succeeds exactly when the image fits, and then writes the image's bytes,
nothing else in memory, and nothing to the console. -/
def Obligations.ImageLoader : Prop :=
  ∀ (s : State) (image : List Byte),
    (s.loadImage image = none ↔ s.cfg.loadBase.toNat + image.length > s.cfg.memSize) ∧
    (∀ t, s.loadImage image = some t →
      t = { s with mem := t.mem } ∧
      ∀ a, t.mem.get? a =
        if s.cfg.loadBase.toNat ≤ a ∧ a < s.cfg.loadBase.toNat + image.length
        then image[a - s.cfg.loadBase.toNat]? else s.mem.get? a)

/-- The invariant holds after construction and image load, for every choice of parameters, and at the
model's own reset, whose parameters (log entries 2 and 3, the model's choice) keep the bounds of R5. -/
def Obligations.InvariantHoldsAtReset : Prop :=
  (∀ (c : Config) (image : List Byte) (s : State), boot c image = some s → s.Inv) ∧
  State.reset.Inv ∧ State.reset.cfg.wf = true

/-- Headline: every step keeps the invariant: memory stays in canonical form and inside `MEM_SIZE`, the
storage of x0 stays 0, and status, power and fault record agree as R341 and R349 say, so that no fault
but those of R341 is ever recorded, each with its own stage and fields. -/
def Obligations.StepKeepsInvariant : Prop :=
  ∀ s t : State, s.Inv → step s = .next t → t.Inv

/-! # Rules about the whole machine -/

/-- No instruction is refused or stops the model: from every state, every instruction answers a next
state. -/
def Obligations.EveryInstructionAnswersNext : Prop :=
  ∀ (i : Instr) (s : State), ∃ t, exec i s = .next t

/-- R23: an instruction changes no register but its destination, never x0, and no class without a
destination changes any; and what it does depends on no register but its sources. -/
def Obligations.RegistersWrittenAndRead : Prop :=
  (∀ (i : Instr) (s t : State), exec i s = .next t →
    ∀ r : RegIdx, (destOf i ≠ some r ∨ r = 0) →
      t.x[r] = s.x[r] ∧ t.regWritten[r] = s.regWritten[r]) ∧
  (∀ (i : Instr) (s t : State) (r : RegIdx) (v : Word) (b : Bool), r ∉ sourcesOf i →
    exec i s = .next t →
    ∃ u, exec i { s with
          x := s.x.set r.val v r.isLt, regWritten := s.regWritten.set r.val b r.isLt } = .next u ∧
      { u with x := t.x, regWritten := t.regWritten } = t ∧
      ∀ q : RegIdx, q ≠ r → u.x[q] = t.x[q] ∧ u.regWritten[q] = t.regWritten[q])

/-- R22: no instruction and no step writes the storage of x0, which is 0 after construction, so every
read of x0 yields 0. -/
def Obligations.ZeroRegisterIsNeverWritten : Prop :=
  (∀ c : Config, (State.resetWith c).x[(0 : RegIdx)] = 0#32) ∧
  (∀ (i : Instr) (s t : State), exec i s = .next t → t.x[(0 : RegIdx)] = s.x[(0 : RegIdx)]) ∧
  (∀ s t : State, step s = .next t → t.x[(0 : RegIdx)] = s.x[(0 : RegIdx)]) ∧
  (∀ s : State, s.regRead (some 0) = .ok 0#32)

/-- Only stores change memory or the console, and a store appends at most one byte to the console's
output; no step rewrites what has been emitted (R32, R52). -/
def Obligations.OnlyStoresTouchMemoryOrConsole : Prop :=
  (∀ (i : Instr) (s t : State), exec i s = .next t → isStore i = false →
    t.mem = s.mem ∧ t.consoleOut = s.consoleOut) ∧
  (∀ (i : Instr) (s t : State), exec i s = .next t →
    t.consoleOut = s.consoleOut ∨ (t.mem = s.mem ∧ ∃ b, t.consoleOut = s.consoleOut ++ [b])) ∧
  (∀ s t : State, step s = .next t →
    t.consoleOut = s.consoleOut ∨ (t.mem = s.mem ∧ ∃ b, t.consoleOut = s.consoleOut ++ [b]))

/-- No instruction moves `pc` (R26: it is written only in the Fetch stage), no step changes the
parameters, and nothing turns `power` on again, or off but EBREAK (R30). -/
def Obligations.PcParametersAndPower : Prop :=
  (∀ (i : Instr) (s t : State), exec i s = .next t →
    t.pc = s.pc ∧ t.cfg = s.cfg ∧ t.power = (s.power && !decide (i = .ebreak))) ∧
  (∀ s t : State, step s = .next t → t.pc = s.nextPc ∧ t.cfg = s.cfg ∧
    (t.power = true → s.power = true))

/-- R349: the state in which a fault leaves the unit. The record names the kind, the stage, the current
`pc`, the fetched word but for a Fetch-stage fault, the bus address of a bus fault and the register of
`UninitRegRead`; registers, memory, console and parameters are as before the cycle, the latches are too
unless the fault is in Memory, and `power` is still 1. -/
def Obligations.FaultStateAndRecord : Prop :=
  ∀ (s t : State) (k : FaultKind), s.isRunning = true → step s = .next t → t.status = .faulted k →
    ∃ r, t.fault = some r ∧ r.kind = k ∧ r.pc = t.pc ∧ t.pc = s.nextPc ∧
      (r.stage = .fetch → r.word = none ∧ r.addr = some s.nextPc) ∧
      (r.stage ≠ .fetch → ∃ w, s.busRead s.nextPc .word false = .ok w ∧ r.word = some w) ∧
      (r.stage = .memory → r.addr = some t.aluLatch) ∧
      (r.stage ≠ .memory → t.pcSelLatch = s.pcSelLatch ∧ t.aluLatch = s.aluLatch) ∧
      (r.reg ≠ none ↔ k = .uninitRegRead) ∧
      (r.addr ≠ none ↔ k = .outOfRange ∨ k = .failedPrecondition ∨ k = .consoleRead ∨
        k = .uninitMemRead) ∧
      t.x = s.x ∧ t.regWritten = s.regWritten ∧ t.mem = s.mem ∧ t.consoleOut = s.consoleOut ∧
      t.cfg = s.cfg ∧ t.power = true

/-- Nothing an instruction does depends on the latches or on the fault record, which no instruction
reads (R29, R351): run from states that differ in those alone, it leaves states that do too. -/
def Obligations.LatchesAndRecordAreInvisible : Prop :=
  ∀ (i : Instr) (s t : State) (l : PcSel) (a : Word) (f : Option FaultRecord),
    exec i s = .next t →
    ∃ u, exec i { s with pcSelLatch := l, aluLatch := a, fault := f } = .next u ∧
      { u with pcSelLatch := t.pcSelLatch, aluLatch := t.aluLatch, fault := t.fault } = t

/-- The draws are used only when the matching parameter is `draw` (R5): under `fault`, machines that
differ in a draw alone are built alike, show the host the same register snapshot and do the same. The snapshot
shows no value for a register never written under fault (log entry 19, DEDUCED). -/
def Obligations.DrawsUnusedUnderFault : Prop :=
  (∀ (s t : State), step s = .next t →
    (∀ r, s.cfg.uninitReg = .fault →
      step { s with cfg := { s.cfg with regInit := r } } =
        .next { t with cfg := { t.cfg with regInit := r } }) ∧
    (∀ m, s.cfg.uninitMem = .fault →
      step { s with cfg := { s.cfg with memInit := m } } =
        .next { t with cfg := { t.cfg with memInit := m } })) ∧
  (∀ (s : State) r, s.cfg.uninitReg = .fault →
    ({ s with cfg := { s.cfg with regInit := r } } : State).snapshot = s.snapshot ∧
    ∀ q : RegIdx, q ≠ 0 → s.regWritten[q] = false → s.snapshot[q] = .error .uninitRegRead) ∧
  (∀ (c : Config) r, c.uninitReg = .fault →
    State.resetWith { c with regInit := r } =
      { State.resetWith c with cfg := { c with regInit := r } }) ∧
  (∀ (c : Config) m, c.uninitMem = .fault →
    State.resetWith { c with memInit := m } =
      { State.resetWith c with cfg := { c with memInit := m } })

/-- The expansion of `li` loads its value (R120), in one instruction or two; the machine goes on. -/
def Obligations.LoadImmediateExpansion : Prop :=
  ∀ (rd : RegIdx) (v : Word) (s : State), s.power = true →
    ∃ t, runList (Pseudo.expand (.li rd v)) s = some t ∧
      t.regValue rd = (if rd = 0 then 0#32 else v) ∧ t.status = s.status ∧
      ∀ q : RegIdx, q ≠ rd → t.regValue q = s.regValue q
end

