-- ==== Sys2Proof/Laws/State.lean ====
section
/-! SUPPORT. One lemma for each field of each update of the state. -/

namespace Sys2Proof.Machine

variable (s : State)

section Raise
variable (k : FaultKind) (st : Stage) (w a : Option Word) (r : Option RegIdx)

@[simp] theorem raise_cfg  : (s.raise k st w a r).cfg = s.cfg := rfl
@[simp] theorem raise_x  : (s.raise k st w a r).x = s.x := rfl
@[simp] theorem raise_regWritten  : (s.raise k st w a r).regWritten = s.regWritten := rfl
@[simp] theorem raise_pc  : (s.raise k st w a r).pc = s.pc := rfl
@[simp] theorem raise_pcSelLatch  : (s.raise k st w a r).pcSelLatch = s.pcSelLatch := rfl
@[simp] theorem raise_aluLatch  : (s.raise k st w a r).aluLatch = s.aluLatch := rfl
@[simp] theorem raise_power  : (s.raise k st w a r).power = s.power := rfl
@[simp] theorem raise_status  : (s.raise k st w a r).status = .faulted k := rfl
@[simp] theorem raise_fault  : (s.raise k st w a r).fault = some ⟨k, st, s.pc, w, a, r⟩ := rfl
@[simp] theorem raise_mem  : (s.raise k st w a r).mem = s.mem := rfl
@[simp] theorem raise_consoleOut  : (s.raise k st w a r).consoleOut = s.consoleOut := rfl
end Raise

section DecodeFault
variable (k : FaultKind) (w : Word) (r : Option RegIdx)

@[simp] theorem decodeFault_cfg  : (s.decodeFault k w r).cfg = s.cfg := rfl
@[simp] theorem decodeFault_x  : (s.decodeFault k w r).x = s.x := rfl
@[simp] theorem decodeFault_regWritten  : (s.decodeFault k w r).regWritten = s.regWritten := rfl
@[simp] theorem decodeFault_pc  : (s.decodeFault k w r).pc = s.pc := rfl
@[simp] theorem decodeFault_pcSelLatch  : (s.decodeFault k w r).pcSelLatch = s.pcSelLatch := rfl
@[simp] theorem decodeFault_aluLatch  : (s.decodeFault k w r).aluLatch = s.aluLatch := rfl
@[simp] theorem decodeFault_power  : (s.decodeFault k w r).power = s.power := rfl
@[simp] theorem decodeFault_status  : (s.decodeFault k w r).status = .faulted k := rfl
@[simp] theorem decodeFault_fault  : (s.decodeFault k w r).fault = some ⟨k, .decode, s.pc, some w, none, r⟩ := rfl
@[simp] theorem decodeFault_mem  : (s.decodeFault k w r).mem = s.mem := rfl
@[simp] theorem decodeFault_consoleOut  : (s.decodeFault k w r).consoleOut = s.consoleOut := rfl
end DecodeFault

section Execute
variable (b : ControlBundle) (v1 v2 : Word)

@[simp] theorem executeStage_cfg  : (executeStage b v1 v2 s).cfg = s.cfg := rfl
@[simp] theorem executeStage_x  : (executeStage b v1 v2 s).x = s.x := rfl
@[simp] theorem executeStage_regWritten  : (executeStage b v1 v2 s).regWritten = s.regWritten := rfl
@[simp] theorem executeStage_pc  : (executeStage b v1 v2 s).pc = s.pc := rfl
@[simp] theorem executeStage_pcSelLatch  : (executeStage b v1 v2 s).pcSelLatch = (setBranchComp b (compareWords b.brUnsigned v1 v2)).pcSel := rfl
@[simp] theorem executeStage_aluLatch  : (executeStage b v1 v2 s).aluLatch = 
    aluResult b.aluOp (operandA b.aSel v1 s.pc) (operandB b.bSel v2 b.imm) := rfl
@[simp] theorem executeStage_power  : (executeStage b v1 v2 s).power = s.power := rfl
@[simp] theorem executeStage_status  : (executeStage b v1 v2 s).status = s.status := rfl
@[simp] theorem executeStage_fault  : (executeStage b v1 v2 s).fault = s.fault := rfl
@[simp] theorem executeStage_mem  : (executeStage b v1 v2 s).mem = s.mem := rfl
@[simp] theorem executeStage_consoleOut  : (executeStage b v1 v2 s).consoleOut = s.consoleOut := rfl
end Execute

section RegWrite
variable (i : Option RegIdx) (v : Word) (we : Bool)

/-- A register write that is suppressed, or has no index, changes nothing (40_datapath_units.md R157). -/
@[simp] theorem regWrite_none : s.regWrite none v we = s := rfl
@[simp] theorem regWrite_disabled : s.regWrite i v false = s := by cases i <;> simp [State.regWrite]
@[simp] theorem regWrite_zero : s.regWrite (some 0) v we = s := by simp [State.regWrite]

/-- The register write that takes effect. -/
theorem regWrite_some {r : RegIdx} (h : r ≠ 0) : s.regWrite (some r) v true =
    { s with x := s.x.set r.val v r.isLt, regWritten := s.regWritten.set r.val true r.isLt } := by
  simp [State.regWrite, h]

/-- All that a register write can do. -/
theorem regWrite_cases : s.regWrite i v we = s ∨ ∃ r, i = some r ∧ we = true ∧ r ≠ 0 ∧
    s.regWrite i v we =
      { s with x := s.x.set r.val v r.isLt, regWritten := s.regWritten.set r.val true r.isLt } := by
  cases i with
  | none => exact .inl rfl
  | some r =>
    by_cases h : we = true ∧ r ≠ 0
    · exact .inr ⟨r, rfl, h.1, h.2, by rw [h.1]; exact regWrite_some s v h.2⟩
    · exact .inl (by simp only [State.regWrite, if_neg h])

@[simp] theorem regWrite_cfg  : (s.regWrite i v we).cfg = s.cfg := by
  obtain h | ⟨r, -, -, -, h⟩ := regWrite_cases s i v we <;> rw [h]
@[simp] theorem regWrite_pc  : (s.regWrite i v we).pc = s.pc := by
  obtain h | ⟨r, -, -, -, h⟩ := regWrite_cases s i v we <;> rw [h]
@[simp] theorem regWrite_pcSelLatch  : (s.regWrite i v we).pcSelLatch = s.pcSelLatch := by
  obtain h | ⟨r, -, -, -, h⟩ := regWrite_cases s i v we <;> rw [h]
@[simp] theorem regWrite_aluLatch  : (s.regWrite i v we).aluLatch = s.aluLatch := by
  obtain h | ⟨r, -, -, -, h⟩ := regWrite_cases s i v we <;> rw [h]
@[simp] theorem regWrite_power  : (s.regWrite i v we).power = s.power := by
  obtain h | ⟨r, -, -, -, h⟩ := regWrite_cases s i v we <;> rw [h]
@[simp] theorem regWrite_status  : (s.regWrite i v we).status = s.status := by
  obtain h | ⟨r, -, -, -, h⟩ := regWrite_cases s i v we <;> rw [h]
@[simp] theorem regWrite_fault  : (s.regWrite i v we).fault = s.fault := by
  obtain h | ⟨r, -, -, -, h⟩ := regWrite_cases s i v we <;> rw [h]
@[simp] theorem regWrite_mem  : (s.regWrite i v we).mem = s.mem := by
  obtain h | ⟨r, -, -, -, h⟩ := regWrite_cases s i v we <;> rw [h]
@[simp] theorem regWrite_consoleOut  : (s.regWrite i v we).consoleOut = s.consoleOut := by
  obtain h | ⟨r, -, -, -, h⟩ := regWrite_cases s i v we <;> rw [h]
end RegWrite

section Writeback
variable (b : ControlBundle) (m : Word)

@[simp] theorem writebackStage_cfg  : (writebackStage b m s).cfg = s.cfg := by simp [writebackStage]
@[simp] theorem writebackStage_pc  : (writebackStage b m s).pc = s.pc := by simp [writebackStage]
@[simp] theorem writebackStage_pcSelLatch  : (writebackStage b m s).pcSelLatch = s.pcSelLatch := by simp [writebackStage]
@[simp] theorem writebackStage_aluLatch  : (writebackStage b m s).aluLatch = s.aluLatch := by simp [writebackStage]
@[simp] theorem writebackStage_power  : (writebackStage b m s).power = s.power := by simp [writebackStage]
@[simp] theorem writebackStage_status  : (writebackStage b m s).status = s.status := by simp [writebackStage]
@[simp] theorem writebackStage_fault  : (writebackStage b m s).fault = s.fault := by simp [writebackStage]
@[simp] theorem writebackStage_mem  : (writebackStage b m s).mem = s.mem := by simp [writebackStage]
@[simp] theorem writebackStage_consoleOut  : (writebackStage b m s).consoleOut = s.consoleOut := by simp [writebackStage]
end Writeback

section EndOfCycle

theorem endOfCycle_running {s : State} (h : s.power = true) : endOfCycle s = s := by simp [endOfCycle, h]
theorem endOfCycle_off {s : State} (h : s.power = false) :
    endOfCycle s = { s with status := .haltedEbreak } := by simp [endOfCycle, h]

@[simp] theorem endOfCycle_cfg  : (endOfCycle s).cfg = s.cfg := by unfold endOfCycle; split <;> simp_all
@[simp] theorem endOfCycle_x  : (endOfCycle s).x = s.x := by unfold endOfCycle; split <;> simp_all
@[simp] theorem endOfCycle_regWritten  : (endOfCycle s).regWritten = s.regWritten := by unfold endOfCycle; split <;> simp_all
@[simp] theorem endOfCycle_pc  : (endOfCycle s).pc = s.pc := by unfold endOfCycle; split <;> simp_all
@[simp] theorem endOfCycle_pcSelLatch  : (endOfCycle s).pcSelLatch = s.pcSelLatch := by unfold endOfCycle; split <;> simp_all
@[simp] theorem endOfCycle_aluLatch  : (endOfCycle s).aluLatch = s.aluLatch := by unfold endOfCycle; split <;> simp_all
@[simp] theorem endOfCycle_power  : (endOfCycle s).power = s.power := by unfold endOfCycle; split <;> simp_all
@[simp] theorem endOfCycle_status  : (endOfCycle s).status = if s.power then s.status else .haltedEbreak := by unfold endOfCycle; split <;> simp_all
@[simp] theorem endOfCycle_fault  : (endOfCycle s).fault = s.fault := by unfold endOfCycle; split <;> simp_all
@[simp] theorem endOfCycle_mem  : (endOfCycle s).mem = s.mem := by unfold endOfCycle; split <;> simp_all
@[simp] theorem endOfCycle_consoleOut  : (endOfCycle s).consoleOut = s.consoleOut := by unfold endOfCycle; split <;> simp_all
end EndOfCycle

section PlaceWord
variable (a w : Word)

@[simp] theorem placeWord_cfg  : (s.placeWord a w).cfg = s.cfg := rfl
@[simp] theorem placeWord_x  : (s.placeWord a w).x = s.x := rfl
@[simp] theorem placeWord_regWritten  : (s.placeWord a w).regWritten = s.regWritten := rfl
@[simp] theorem placeWord_pc  : (s.placeWord a w).pc = s.pc := rfl
@[simp] theorem placeWord_pcSelLatch  : (s.placeWord a w).pcSelLatch = s.pcSelLatch := rfl
@[simp] theorem placeWord_aluLatch  : (s.placeWord a w).aluLatch = s.aluLatch := rfl
@[simp] theorem placeWord_power  : (s.placeWord a w).power = s.power := rfl
@[simp] theorem placeWord_status  : (s.placeWord a w).status = s.status := rfl
@[simp] theorem placeWord_fault  : (s.placeWord a w).fault = s.fault := rfl
@[simp] theorem placeWord_mem  : (s.placeWord a w).mem = s.mem.store a.toNat .word w := rfl
@[simp] theorem placeWord_consoleOut  : (s.placeWord a w).consoleOut = s.consoleOut := rfl
end PlaceWord

section Reset
variable (c : Config)

@[simp] theorem resetWith_cfg  : (State.resetWith c).cfg = c := rfl
@[simp] theorem resetWith_x  : (State.resetWith c).x = c.initialRegs.set 0 0#32 := rfl
@[simp] theorem resetWith_regWritten  : (State.resetWith c).regWritten = (Vector.replicate 32 false).set 0 true := rfl
@[simp] theorem resetWith_pc  : (State.resetWith c).pc = c.loadBase - 4#32 := rfl
@[simp] theorem resetWith_pcSelLatch  : (State.resetWith c).pcSelLatch = .pc4 := rfl
@[simp] theorem resetWith_aluLatch  : (State.resetWith c).aluLatch = 0#32 := rfl
@[simp] theorem resetWith_power  : (State.resetWith c).power = true := rfl
@[simp] theorem resetWith_status  : (State.resetWith c).status = .running := rfl
@[simp] theorem resetWith_fault  : (State.resetWith c).fault = none := rfl
@[simp] theorem resetWith_mem  : (State.resetWith c).mem = [] := rfl
@[simp] theorem resetWith_consoleOut  : (State.resetWith c).consoleOut = [] := rfl
end Reset

/-! ## What is read is a function of the fields it reads -/

section Reads

theorem decodeFault_eq_raise (k : FaultKind) (w : Word) (r : Option RegIdx) :
    s.decodeFault k w r = s.raise k .decode (some w) none r := rfl

theorem setBranchComp_none {b : ControlBundle} (h : b.brCond = .none) (p : Comparison) :
    setBranchComp b p = b := by simp [setBranchComp, BrCond.holds, h]

end Reads

end Sys2Proof.Machine
end

