-- ==== Sys2Proof/Laws/Memory.lean ====
section
/-! SUPPORT. Memory: read after write, the canonical form, and where the listed addresses lie. -/

namespace Sys2Proof.Machine

/-! ## One byte -/

@[simp] theorem get?_nil (a : Nat) : Memory.get? [] a = none := rfl

@[simp] theorem get?_set_same (m : Memory) (a : Nat) (v : Byte) : (m.set a v).get? a = some v := by
  induction m with
  | nil => simp [Memory.set, Memory.get?]
  | cons c m ih =>
    obtain ⟨b, u⟩ := c
    by_cases h1 : a < b
    · simp [Memory.set, Memory.get?, h1]
    · by_cases h2 : a = b
      · simp [Memory.set, Memory.get?, h2]
      · simp [Memory.set, Memory.get?, h1, h2, ih]

theorem get?_set_other (m : Memory) {a b : Nat} (v : Byte) (h : b ≠ a) :
    (m.set a v).get? b = m.get? b := by
  induction m with
  | nil => simp [Memory.set, Memory.get?, h]
  | cons c m ih =>
    obtain ⟨d, u⟩ := c
    by_cases h1 : a < d
    · simp [Memory.set, Memory.get?, h1, h]
    · by_cases h2 : a = d
      · subst h2
        simp [Memory.set, Memory.get?, h]
      · simp only [Memory.set, h1, h2, if_false, Memory.get?, ih]

theorem get?_set (m : Memory) (a b : Nat) (v : Byte) :
    (m.set a v).get? b = if b = a then some v else m.get? b := by
  split
  · next h => rw [h, get?_set_same]
  · next h => exact get?_set_other m v h

/-- The addresses a written memory lists. -/
theorem mem_set {m : Memory} {a : Nat} {v : Byte} {c : Host.Cell} (h : c ∈ m.set a v) :
    c = (a, v) ∨ c ∈ m := by
  induction m with
  | nil => exact .inl (by simpa [Memory.set] using h)
  | cons d m ih =>
    obtain ⟨b, u⟩ := d
    by_cases h1 : a < b
    · simpa [Memory.set, h1] using h
    · by_cases h2 : a = b
      · subst h2
        simp only [Memory.set, lt_irrefl, if_false, if_true, List.mem_cons] at h
        exact h.imp_right (List.mem_cons_of_mem _)
      · simp only [Memory.set, h1, h2, if_false, List.mem_cons] at h
        obtain rfl | h := h
        · exact .inr (List.mem_cons_self ..)
        · exact (ih h).imp_right (List.mem_cons_of_mem _)

/-- Writing a byte keeps the canonical form. -/
theorem set_wf {m : Memory} (h : Memory.wf m) (a : Nat) (v : Byte) : Memory.wf (m.set a v) := by
  induction m with
  | nil => simp [Memory.set, Memory.wf]
  | cons d m ih =>
    obtain ⟨b, u⟩ := d
    obtain ⟨hb, hm⟩ := List.pairwise_cons.1 h
    by_cases h1 : a < b
    · simp only [Memory.set, h1, if_true]
      refine List.pairwise_cons.2 ⟨fun c hc => ?_, h⟩
      obtain rfl | hc := List.mem_cons.1 hc
      · exact h1
      · exact h1.trans (hb c hc)
    · by_cases h2 : a = b
      · subst h2
        simp only [Memory.set, lt_irrefl, if_false, if_true]
        exact List.pairwise_cons.2 ⟨hb, hm⟩
      · simp only [Memory.set, h1, h2, if_false]
        refine List.pairwise_cons.2 ⟨fun c hc => ?_, ih hm⟩
        obtain rfl | hc := mem_set hc
        · exact lt_of_le_of_ne (not_lt.1 h1) (Ne.symm h2)
        · exact hb c hc

/-- A written byte is listed, and a listed byte of a canonical memory is what a read gives. -/
theorem mem_of_get? {m : Memory} {a : Nat} {v : Byte} (h : m.get? a = some v) : (a, v) ∈ m := by
  induction m with
  | nil => simp at h
  | cons d m ih =>
    obtain ⟨b, u⟩ := d
    by_cases h1 : a = b
    · subst h1
      simp only [Memory.get?, if_true, Option.some.injEq] at h
      simp [h]
    · simp only [Memory.get?, h1, if_false] at h
      exact List.mem_cons_of_mem _ (ih h)

theorem get?_of_mem {m : Memory} (hm : Memory.wf m) {a : Nat} {v : Byte} (h : (a, v) ∈ m) :
    m.get? a = some v := by
  induction m with
  | nil => simp at h
  | cons d m ih =>
    obtain ⟨b, u⟩ := d
    obtain ⟨hb, hm'⟩ := List.pairwise_cons.1 hm
    obtain h | h := List.mem_cons.1 h
    · cases h
      simp [Memory.get?]
    · have : b < a := hb _ h
      simp only [Memory.get?, this.ne', if_false]
      exact ih hm' h

/-! ## A store of 1, 2 or 4 bytes -/

/-- Every byte of memory after a store (20_memory.md R53, R59). -/
theorem get?_store (m : Memory) (a b : Nat) (n : Width) (v : Word) :
    (m.store a n v).get? b =
      if a ≤ b ∧ b < a + n.bytes then some (v.extractLsb' (8 * (b - a)) 8) else m.get? b := by
  by_cases h : a ≤ b ∧ b < a + n.bytes
  · rw [if_pos h]
    obtain ⟨d, rfl⟩ := Nat.exists_eq_add_of_le h.1
    have hd : d < n.bytes := by omega
    rw [Nat.add_sub_cancel_left]
    cases n <;> simp only [Width.bytes] at hd <;> interval_cases d <;>
      simp [Memory.store, get?_set]
  · rw [if_neg h]
    cases n <;> simp only [Width.bytes] at h <;> simp only [Memory.store]
    · rw [get?_set_other _ _ (by omega)]
    · rw [get?_set_other _ _ (by omega), get?_set_other _ _ (by omega)]
    · rw [get?_set_other _ _ (by omega), get?_set_other _ _ (by omega),
        get?_set_other _ _ (by omega), get?_set_other _ _ (by omega)]

theorem store_wf {m : Memory} (h : Memory.wf m) (a : Nat) (n : Width) (v : Word) :
    Memory.wf (m.store a n v) := by
  cases n <;> simp only [Memory.store] <;> repeat' apply set_wf
  all_goals exact h

/-- Where a store's entries lie. -/
theorem mem_store {m : Memory} {a : Nat} {n : Width} {v : Word} {c : Host.Cell}
    (h : c ∈ m.store a n v) : (a ≤ c.1 ∧ c.1 < a + n.bytes) ∨ c ∈ m := by
  cases n with
  | byte =>
    obtain rfl | h := mem_set h
    · exact .inl (by simp [Width.bytes])
    · exact .inr h
  | half =>
    obtain rfl | h := mem_set h
    · exact .inl (by simp [Width.bytes])
    obtain rfl | h := mem_set h
    · exact .inl (by simp [Width.bytes])
    · exact .inr h
  | word =>
    obtain rfl | h := mem_set h
    · exact .inl (by simp [Width.bytes])
    obtain rfl | h := mem_set h
    · exact .inl (by simp [Width.bytes])
    obtain rfl | h := mem_set h
    · exact .inl (by simp [Width.bytes])
    obtain rfl | h := mem_set h
    · exact .inl (by simp [Width.bytes])
    · exact .inr h

/-! ## The image loader's copy -/

/-- Every byte of memory after a copy (20_memory.md R73). -/
theorem get?_copy (m : Memory) (a b : Nat) (bs : List Byte) :
    (m.copy a bs).get? b = if h : a ≤ b ∧ b < a + bs.length then some (bs[b - a]'(by omega)) else m.get? b := by
  induction bs generalizing m a with
  | nil => rw [dif_neg (by rintro ⟨h1, h2⟩; simp at h2; omega)]; rfl
  | cons v bs ih =>
    simp only [Memory.copy, ih, List.length_cons]
    by_cases h : b = a
    · subst h
      rw [dif_neg (by omega), dif_pos (by omega)]
      simp
    · by_cases h1 : a ≤ b ∧ b < a + (bs.length + 1)
      · rw [dif_pos (by omega), dif_pos h1]
        have e : b - a = b - (a + 1) + 1 := by omega
        simp [e]
      · rw [dif_neg (by omega), dif_neg h1, get?_set_other _ _ h]

theorem copy_wf {m : Memory} (h : Memory.wf m) (a : Nat) (bs : List Byte) :
    Memory.wf (m.copy a bs) := by
  induction bs generalizing m a with
  | nil => exact h
  | cons v bs ih => exact ih (set_wf h a v) (a + 1)

theorem mem_copy {m : Memory} {a : Nat} {bs : List Byte} {c : Host.Cell} (h : c ∈ m.copy a bs) :
    (a ≤ c.1 ∧ c.1 < a + bs.length) ∨ c ∈ m := by
  induction bs generalizing m a with
  | nil => exact .inr h
  | cons v bs ih =>
    obtain ⟨h1, h2⟩ | h := ih h
    · exact .inl ⟨by omega, by simp only [List.length_cons]; omega⟩
    · obtain rfl | h := mem_set h
      · exact .inl ⟨le_refl _, by simp⟩
      · exact .inr h

end Sys2Proof.Machine
end

