-- ==== Sys2Proof/Laws/Registers.lean ====
section
/-! SUPPORT. The register file: reads, writes, and what a read depends on (40_datapath_units.md R157). -/

namespace Sys2Proof.Machine

/-- One element of a vector after a write at a register's index. -/
theorem getElem_setReg {α : Type} (v : Vector α 32) (r q : RegIdx) (a : α) :
    (v.set r.val a r.isLt)[q] = if r = q then a else v[q] := by
  show (v.set r.val a r.isLt)[q.val] = _
  rw [Vector.getElem_set]
  simp only [Fin.ext_iff]
  rfl

@[simp] theorem getElem_setReg_same {α : Type} (v : Vector α 32) (r : RegIdx) (a : α) :
    (v.set r.val a r.isLt)[r] = a := by rw [getElem_setReg, if_pos rfl]

theorem getElem_setReg_other {α : Type} (v : Vector α 32) {r q : RegIdx} (a : α) (h : r ≠ q) :
    (v.set r.val a r.isLt)[q] = v[q] := by rw [getElem_setReg, if_neg h]

@[simp] theorem regValue_zero (s : State) : s.regValue 0 = 0#32 := by simp [State.regValue]
@[simp] theorem regUnreadable_zero (s : State) : s.regUnreadable 0 = false := by
  simp [State.regUnreadable]
@[simp] theorem regRead_none (s : State) : s.regRead none = .ok 0#32 := rfl

theorem regRead_ok {s : State} {r : RegIdx} (h : s.regUnreadable r = false) :
    s.regRead (some r) = .ok (s.regValue r) := by simp [State.regRead, h]

theorem regRead_fault {s : State} {r : RegIdx} (h : s.regUnreadable r = true) :
    s.regRead (some r) = .error .uninitRegRead := by simp [State.regRead, h]

/-- When a register can be read (R157). -/
theorem regUnreadable_eq_false {s : State} {r : RegIdx} : s.regUnreadable r = false ↔
    r = 0 ∨ s.regWritten[r] = true ∨ s.cfg.uninitReg = .draw := by
  have h2 : s.cfg.uninitReg = .draw ↔ ¬ s.cfg.uninitReg = .fault := by
    cases s.cfg.uninitReg <;> simp
  cases h : s.regWritten[r] <;> simp [State.regUnreadable, h, h2, imp_iff_not_or]

/-- The only fault of a register read is `UninitRegRead`, of a register other than x0. -/
theorem regRead_error {s : State} {i : Option RegIdx} {k : FaultKind} (h : s.regRead i = .error k) :
    k = .uninitRegRead ∧ ∃ r, i = some r ∧ r ≠ 0 ∧ s.regUnreadable r = true := by
  cases i with
  | none => cases h
  | some r =>
    cases hr : s.regUnreadable r with
    | false => rw [regRead_ok hr] at h; cases h
    | true =>
      rw [regRead_fault hr] at h
      cases h
      refine ⟨rfl, r, rfl, ?_, hr⟩
      rintro rfl
      simp at hr

/-- A read that succeeds gives the register's value. -/
theorem regRead_value {s : State} {r : RegIdx} {v : Word} (h : s.regRead (some r) = .ok v) :
    v = s.regValue r := by
  cases hr : s.regUnreadable r with
  | false => rw [regRead_ok hr] at h; cases h; rfl
  | true => rw [regRead_fault hr] at h; cases h

/-- A register read depends on the parameters, the storage and the written bits alone. -/
theorem regValue_congr {s t : State} (hc : t.cfg = s.cfg) (hx : t.x = s.x)
    (hw : t.regWritten = s.regWritten) (r : RegIdx) : t.regValue r = s.regValue r := by
  simp [State.regValue, hc, hx, hw]

/-- The snapshot's entry `r` is what reading register `r` gives. -/
@[simp] theorem snapshot_get (s : State) (r : RegIdx) : s.snapshot[r] = s.regRead (some r) := by
  simp [State.snapshot]

theorem initialRegs_draw {c : Config} (h : c.uninitReg = .draw) : c.initialRegs = c.regInit := by
  simp [Config.initialRegs, h]

/-- Under fault the draw plays no part in the storage that construction leaves. -/
theorem initialRegs_fault {c : Config} (h : c.uninitReg = .fault) :
    c.initialRegs = Vector.replicate 32 0#32 := by simp [Config.initialRegs, h]

/-- Under fault the draw plays no part in a register read. -/
theorem regRead_regInit {s : State} (h : s.cfg.uninitReg = .fault) (d : Vector Word 32)
    (i : Option RegIdx) :
    ({ s with cfg := { s.cfg with regInit := d } } : State).regRead i = s.regRead i := by
  cases i with
  | none => rfl
  | some r =>
    by_cases h0 : r = 0
    · subst h0; rfl
    · cases hw : s.regWritten[r] <;>
        simp [State.regRead, State.regUnreadable, State.regValue, h, h0, hw]

theorem regUnreadable_congr {s t : State} (hc : t.cfg = s.cfg) (hw : t.regWritten = s.regWritten)
    (r : RegIdx) : t.regUnreadable r = s.regUnreadable r := by
  simp [State.regUnreadable, hc, hw]

theorem regRead_congr {s t : State} (hc : t.cfg = s.cfg) (hx : t.x = s.x)
    (hw : t.regWritten = s.regWritten) (i : Option RegIdx) : t.regRead i = s.regRead i := by
  cases i with
  | none => rfl
  | some r => simp [State.regRead, regUnreadable_congr hc hw, regValue_congr hc hx hw]

/-- The value of every register after a register write. -/
theorem regValue_regWrite (s : State) {r : RegIdx} (h : r ≠ 0) (q : RegIdx) (v : Word) :
    (s.regWrite (some r) v true).regValue q = if q = r then v else s.regValue q := by
  rw [regWrite_some s v h]
  unfold State.regValue
  by_cases hq : q = r
  · subst hq
    simp [h]
  · simp only [if_neg hq, getElem_setReg_other _ _ (Ne.symm hq)]

end Sys2Proof.Machine
end

