-- ==== Sys2Proof/Laws/Bus.lean ====
section
/-! SUPPORT. The bus: when an access succeeds and what it then does (20_memory.md R57 to R62). -/

namespace Sys2Proof.Machine

/-! ## The checks, as facts about numbers -/

theorem inConsole_eq_true {c : Config} {a : Word} : inConsole c a = true ↔
    c.conBase.toNat ≤ a.toNat ∧ a.toNat < c.conBase.toNat + c.conSize := by simp [inConsole]

theorem inConsole_eq_false {c : Config} {a : Word} : inConsole c a = false ↔
    ¬ (c.conBase.toNat ≤ a.toNat ∧ a.toNat < c.conBase.toNat + c.conSize) := by
  rw [← inConsole_eq_true, Bool.not_eq_true]

theorem beyondMemory_eq_true {c : Config} {a : Word} {n : Width} : beyondMemory c a n = true ↔
    c.memSize < a.toNat + n.bytes := decide_eq_true_iff

theorem beyondMemory_eq_false {c : Config} {a : Word} {n : Width} : beyondMemory c a n = false ↔
    a.toNat + n.bytes ≤ c.memSize := by
  rw [← Bool.not_eq_true, beyondMemory_eq_true, not_lt]

theorem misaligned_eq_true {a : Word} {n : Width} : misaligned a n = true ↔
    a.toNat % n.bytes ≠ 0 := by simp [misaligned]

theorem misaligned_eq_false {a : Word} {n : Width} : misaligned a n = false ↔
    a.toNat % n.bytes = 0 := by simp [misaligned]

theorem allWritten_eq_true {s : State} {a : Nat} {n : Width} : s.allWritten a n = true ↔
    ∀ i < n.bytes, s.written (a + i) = true := by simp [State.allWritten]

/-- When a bus read succeeds, and the word it returns. -/
theorem busRead_eq_ok {s : State} {a : Word} {n : Width} {g : Bool} {v : Word} :
    s.busRead a n g = .ok v ↔ inConsole s.cfg a = false ∧ beyondMemory s.cfg a n = false ∧
      misaligned a n = false ∧ (s.cfg.uninitMem = .draw ∨ s.allWritten a.toNat n = true) ∧
      v = s.assemble a.toNat n g := by
  have hd : s.cfg.uninitMem = .draw ↔ ¬ s.cfg.uninitMem = .fault := by
    cases s.cfg.uninitMem <;> simp
  unfold State.busRead
  cases inConsole s.cfg a <;> cases beyondMemory s.cfg a n <;> cases misaligned a n <;>
    by_cases hu : s.cfg.uninitMem = .fault <;> cases hw : s.allWritten a.toNat n <;>
    simp [hd, hu, eq_comm]

/-- When a bus write succeeds, and the state it gives: a console byte, or the bytes in memory. -/
theorem busWrite_eq_ok {s t : State} {a : Word} {n : Width} {v : Word} :
    s.busWrite a n v = .ok t ↔ misaligned a n = false ∧
      ((inConsole s.cfg a = true ∧
          t = { s with consoleOut := s.consoleOut ++ [v.extractLsb' 0 8] }) ∨
        (inConsole s.cfg a = false ∧ beyondMemory s.cfg a n = false ∧
          t = { s with mem := s.mem.store a.toNat n v })) := by
  unfold State.busWrite
  cases inConsole s.cfg a <;> cases beyondMemory s.cfg a n <;> cases misaligned a n <;>
    simp [eq_comm]

/-- The faults of a bus read. -/
theorem busRead_error {s : State} {a : Word} {n : Width} {g : Bool} {k : FaultKind}
    (h : s.busRead a n g = .error k) :
    k = .consoleRead ∨ k = .outOfRange ∨ k = .failedPrecondition ∨ k = .uninitMemRead := by
  unfold State.busRead at h
  split at h
  · cases h; simp
  split at h
  · cases h; simp
  split at h
  · cases h; simp
  split at h
  · cases h; simp
  · cases h

/-- The faults of a bus write. -/
theorem busWrite_error {s : State} {a : Word} {n : Width} {v : Word} {k : FaultKind}
    (h : s.busWrite a n v = .error k) : k = .outOfRange ∨ k = .failedPrecondition := by
  unfold State.busWrite at h
  split at h
  · split at h
    · cases h; simp
    · cases h
  split at h
  · cases h; simp
  split at h
  · cases h; simp
  · cases h

/-! ## The canonical form of memory, through every operation on a state -/

theorem busWrite_wf {s t : State} {a : Word} {n : Width} {v : Word} (h : Memory.wf s.mem)
    (hw : s.busWrite a n v = .ok t) : Memory.wf t.mem := by
  obtain ⟨-, ⟨-, rfl⟩ | ⟨-, -, rfl⟩⟩ := busWrite_eq_ok.1 hw
  · exact h
  · exact store_wf h _ _ _

theorem placeWord_wf {s : State} (h : Memory.wf s.mem) (a w : Word) :
    Memory.wf (s.placeWord a w).mem := store_wf h a.toNat .word w

theorem withFetchWord_wf {s : State} (h : Memory.wf s.mem) (nbits w : Nat) :
    Memory.wf (s.withFetchWord nbits w).mem := placeWord_wf h _ _

/-- The image loader that succeeds, and what it gives (R73). -/
theorem loadImage_eq_some {s t : State} {image : List Byte} : s.loadImage image = some t ↔
    s.cfg.loadBase.toNat + image.length ≤ s.cfg.memSize ∧
      t = { s with mem := s.mem.copy s.cfg.loadBase.toNat image } := by
  unfold State.loadImage
  split <;> simp_all [eq_comm]

theorem loadImage_wf {s t : State} {image : List Byte} (h : Memory.wf s.mem)
    (hl : s.loadImage image = some t) : Memory.wf t.mem := by
  obtain ⟨-, rfl⟩ := loadImage_eq_some.1 hl
  exact copy_wf h _ _

/-- Memory is canonical after construction, and at the model's reset. -/
theorem resetWith_wf (c : Config) : Memory.wf (State.resetWith c).mem := List.Pairwise.nil
theorem reset_wf : Memory.wf State.reset.mem := resetWith_wf resetConfig

/-- A bus read depends on the parameters and memory alone. -/
theorem busRead_congr {s t : State} (hc : t.cfg = s.cfg) (hm : t.mem = s.mem) (a : Word) (n : Width)
    (g : Bool) : t.busRead a n g = s.busRead a n g := by
  have hb : t.byteAt = s.byteAt := by funext b; simp [State.byteAt, hc, hm]
  have hw : t.written = s.written := by funext b; simp [State.written, hm]
  simp [State.busRead, State.assemble, State.allWritten, hc, hb, hw]

/-- What a byte reads as after a write into memory. -/
theorem byteAt_store (s : State) (a b : Nat) (n : Width) (v : Word) :
    State.byteAt { s with mem := s.mem.store a n v } b =
      if a ≤ b ∧ b < a + n.bytes then v.extractLsb' (8 * (b - a)) 8 else s.byteAt b := by
  simp only [State.byteAt, get?_store]
  split <;> rfl

theorem written_store (s : State) (a b : Nat) (n : Width) (v : Word) :
    State.written { s with mem := s.mem.store a n v } b =
      (decide (a ≤ b ∧ b < a + n.bytes) || s.written b) := by
  simp only [State.written, get?_store]
  split <;> simp_all

end Sys2Proof.Machine
end

