-- ==== Sys2Proof/Laws/Cycle.lean ====
section
/-! SUPPORT. What each stage of the cycle can do, and what a whole cycle can do (41_execution_cycle.md
R171 to R177). -/

namespace Sys2Proof.Machine

/-! ## The stages -/

/-- The fetch that succeeds. -/
theorem fetchStage_ok {s s1 : State} {w : Word} : fetchStage s = .ok (s1, w) ↔
    s1 = { s with pc := s.nextPc } ∧ s.busRead s.nextPc .word false = .ok w := by
  have hb : State.busRead { s with pc := s.nextPc } s.nextPc .word false =
      s.busRead s.nextPc .word false := busRead_congr rfl rfl _ _ _
  unfold fetchStage
  simp only [hb]
  cases h : s.busRead s.nextPc .word false with
  | error k => simp
  | ok v => simp [eq_comm]

/-- The fetch that faults. -/
theorem fetchStage_error {s t : State} : fetchStage s = .error t ↔
    ∃ k, s.busRead s.nextPc .word false = .error k ∧
      t = State.raise { s with pc := s.nextPc } k .fetch none (some s.nextPc) none := by
  have hb : State.busRead { s with pc := s.nextPc } s.nextPc .word false =
      s.busRead s.nextPc .word false := busRead_congr rfl rfl _ _ _
  unfold fetchStage
  simp only [hb]
  cases h : s.busRead s.nextPc .word false with
  | error k => simp [eq_comm]
  | ok v => simp

/-- The state after the system signal of a bundle that raises no fault: EBREAK alone changes it. -/
def afterSys (b : ControlBundle) (s : State) : State :=
  { s with power := s.power && decide (b.sys ≠ .ebreak) }

theorem afterSys_eq {b : ControlBundle} (h : b.sys ≠ .ebreak) (s : State) : afterSys b s = s := by
  simp [afterSys, h]

@[simp] theorem afterSys_cfg (b : ControlBundle) (s : State) : (afterSys b s).cfg = s.cfg := rfl
@[simp] theorem afterSys_x (b : ControlBundle) (s : State) : (afterSys b s).x = s.x := rfl
@[simp] theorem afterSys_regWritten (b : ControlBundle) (s : State) :
    (afterSys b s).regWritten = s.regWritten := rfl
@[simp] theorem afterSys_pc (b : ControlBundle) (s : State) : (afterSys b s).pc = s.pc := rfl
@[simp] theorem afterSys_pcSelLatch (b : ControlBundle) (s : State) :
    (afterSys b s).pcSelLatch = s.pcSelLatch := rfl
@[simp] theorem afterSys_aluLatch (b : ControlBundle) (s : State) :
    (afterSys b s).aluLatch = s.aluLatch := rfl
@[simp] theorem afterSys_power (b : ControlBundle) (s : State) :
    (afterSys b s).power = (s.power && decide (b.sys ≠ .ebreak)) := rfl
@[simp] theorem afterSys_status (b : ControlBundle) (s : State) :
    (afterSys b s).status = s.status := rfl
@[simp] theorem afterSys_fault (b : ControlBundle) (s : State) : (afterSys b s).fault = s.fault := rfl
@[simp] theorem afterSys_mem (b : ControlBundle) (s : State) : (afterSys b s).mem = s.mem := rfl
@[simp] theorem afterSys_consoleOut (b : ControlBundle) (s : State) :
    (afterSys b s).consoleOut = s.consoleOut := rfl

/-- The system phase: `EnvCall`, or on with `power` cleared by EBREAK. -/
theorem sysPhase_cases (w : Word) (b : ControlBundle) (s : State) :
    (b.sys = .ecall ∧ s.cfg.ecall = .fault ∧
      sysPhase w b s = .error (s.decodeFault .envCall w none)) ∨
    (¬ (b.sys = .ecall ∧ s.cfg.ecall = .fault) ∧ sysPhase w b s = .ok (afterSys b s)) := by
  unfold sysPhase afterSys
  cases b.sys <;> simp
  cases s.cfg.ecall <;> simp

/-- The register reads that both succeed. -/
theorem readPhase_ok {w : Word} {b : ControlBundle} {s : State} {v1 v2 : Word} :
    readPhase w b s = .ok (v1, v2) ↔ s.regRead b.rs1 = .ok v1 ∧ s.regRead b.rs2 = .ok v2 := by
  unfold readPhase
  cases s.regRead b.rs1 with
  | error k => simp
  | ok a => cases s.regRead b.rs2 <;> simp

/-- The register reads that fault: rs1 is read first. -/
theorem readPhase_error {w : Word} {b : ControlBundle} {s t : State}
    (h : readPhase w b s = .error t) :
    ∃ r, (b.rs1 = some r ∨ b.rs2 = some r) ∧ r ≠ 0 ∧ s.regUnreadable r = true ∧
      t = s.decodeFault .uninitRegRead w (some r) := by
  unfold readPhase at h
  cases h1 : s.regRead b.rs1 with
  | error k =>
    rw [h1] at h
    obtain ⟨rfl, r, hr, h0, hu⟩ := regRead_error h1
    refine ⟨r, .inl hr, h0, hu, ?_⟩
    simpa [hr] using h.symm
  | ok v1 =>
    cases h2 : s.regRead b.rs2 with
    | error k =>
      rw [h1, h2] at h
      obtain ⟨rfl, r, hr, h0, hu⟩ := regRead_error h2
      refine ⟨r, .inr hr, h0, hu, ?_⟩
      simpa [hr] using h.symm
    | ok v2 =>
      rw [h1, h2] at h
      cases h

/-- A bundle without a memory operation does nothing in the Memory stage. -/
theorem memoryStage_none {b : ControlBundle} (h : b.memOp = .none) (w v2 : Word) (s : State) :
    memoryStage w b v2 s = .ok (s, 0#32) := by simp [memoryStage, h]

/-- The Memory stage that succeeds: nothing, a read, or a write. -/
theorem memoryStage_ok {w v2 m : Word} {b : ControlBundle} {s t : State}
    (h : memoryStage w b v2 s = .ok (t, m)) :
    (t = s ∧ (b.memOp = .read → ∀ n, b.memWidth = some n →
      s.busRead s.aluLatch n b.memSigned = .ok m)) ∨
    (b.memOp = .write ∧ ∃ n, b.memWidth = some n ∧ s.busWrite s.aluLatch n v2 = .ok t) := by
  unfold memoryStage at h
  split at h
  · next n h1 h2 =>
    cases hb : s.busRead s.aluLatch n b.memSigned with
    | error k => simp [hb] at h
    | ok v =>
      simp only [hb, Except.ok.injEq, Prod.mk.injEq] at h
      refine .inl ⟨h.1.symm, fun _ k hk => ?_⟩
      rw [h2] at hk
      cases hk
      rw [hb, h.2]
  · next n h1 h2 =>
    cases hb : s.busWrite s.aluLatch n v2 with
    | error k => simp [hb] at h
    | ok u =>
      simp only [hb, Except.ok.injEq, Prod.mk.injEq] at h
      exact .inr ⟨h1, n, h2, by rw [hb, h.1]⟩
  · next h1 h2 =>
    simp only [Except.ok.injEq, Prod.mk.injEq] at h
    exact .inl ⟨h.1.symm, fun hr n hn => (h1 n hr hn).elim⟩

/-- The Memory stage that succeeds changes memory and the console at most. -/
theorem memoryStage_frame {w v2 m : Word} {b : ControlBundle} {s t : State}
    (h : memoryStage w b v2 s = .ok (t, m)) :
    t = { s with mem := t.mem, consoleOut := t.consoleOut } := by
  obtain ⟨rfl, -⟩ | ⟨-, n, -, hb⟩ := memoryStage_ok h
  · rfl
  · obtain ⟨-, ⟨-, rfl⟩ | ⟨-, -, rfl⟩⟩ := busWrite_eq_ok.1 hb <;> rfl

/-- The Memory stage that faults. -/
theorem memoryStage_error {w v2 : Word} {b : ControlBundle} {s t : State}
    (h : memoryStage w b v2 s = .error t) :
    ∃ k n, b.memWidth = some n ∧
      ((b.memOp = .read ∧ s.busRead s.aluLatch n b.memSigned = .error k) ∨
        (b.memOp = .write ∧ s.busWrite s.aluLatch n v2 = .error k)) ∧
      t = s.raise k .memory (some w) (some s.aluLatch) none := by
  unfold memoryStage at h
  split at h
  · next n h1 h2 =>
    cases hb : s.busRead s.aluLatch n b.memSigned with
    | error k => exact ⟨k, n, h2, .inl ⟨h1, hb⟩, by simpa [hb] using h.symm⟩
    | ok v => simp [hb] at h
  · next n h1 h2 =>
    cases hb : s.busWrite s.aluLatch n v2 with
    | error k => exact ⟨k, n, h2, .inr ⟨h1, hb⟩, by simpa [hb] using h.symm⟩
    | ok u => simp [hb] at h
  · cases h

/-! ## The whole cycle -/

/-- All that a cycle can do after the bundle is known: `EnvCall`, an unreadable register, a bus fault,
or completion. -/
theorem runBundle_cases (w : Word) (b : ControlBundle) (s : State) :
    (b.sys = .ecall ∧ s.cfg.ecall = .fault ∧
      runBundle w b s = s.decodeFault .envCall w none) ∨
    (∃ r, (b.rs1 = some r ∨ b.rs2 = some r) ∧ r ≠ 0 ∧ s.regUnreadable r = true ∧
      runBundle w b s = (afterSys b s).decodeFault .uninitRegRead w (some r)) ∨
    (∃ v1 v2 k n, s.regRead b.rs1 = .ok v1 ∧ s.regRead b.rs2 = .ok v2 ∧ b.memWidth = some n ∧
      ((b.memOp = .read ∧ (executeStage b v1 v2 (afterSys b s)).busRead
          (executeStage b v1 v2 (afterSys b s)).aluLatch n b.memSigned = .error k) ∨
        (b.memOp = .write ∧ (executeStage b v1 v2 (afterSys b s)).busWrite
          (executeStage b v1 v2 (afterSys b s)).aluLatch n v2 = .error k)) ∧
      runBundle w b s = (executeStage b v1 v2 (afterSys b s)).raise k .memory (some w)
        (some (executeStage b v1 v2 (afterSys b s)).aluLatch) none) ∨
    (∃ v1 v2 t m, s.regRead b.rs1 = .ok v1 ∧ s.regRead b.rs2 = .ok v2 ∧
      memoryStage w b v2 (executeStage b v1 v2 (afterSys b s)) = .ok (t, m) ∧
      runBundle w b s = endOfCycle (writebackStage b m t)) := by
  obtain ⟨h1, h2, h⟩ | ⟨-, h⟩ := sysPhase_cases w b s
  · exact .inl ⟨h1, h2, by simp [runBundle, h]⟩
  have hread : ∀ i, (afterSys b s).regRead i = s.regRead i := regRead_congr rfl rfl rfl
  cases hr : readPhase w b (afterSys b s) with
  | error t =>
    obtain ⟨r, h1, h0, h2, rfl⟩ := readPhase_error hr
    exact .inr (.inl ⟨r, h1, h0,
      (regUnreadable_congr (s := s) (t := afterSys b s) rfl rfl r).symm.trans h2,
      by simp [runBundle, h, hr]⟩)
  | ok p =>
    obtain ⟨v1, v2⟩ := p
    have h12 := readPhase_ok.1 hr
    simp only [hread] at h12
    cases hm : memoryStage w b v2 (executeStage b v1 v2 (afterSys b s)) with
    | error t =>
      obtain ⟨k, n, h3, h4, rfl⟩ := memoryStage_error hm
      exact .inr (.inr (.inl ⟨v1, v2, k, n, h12.1, h12.2, h3, h4, by simp [runBundle, h, hr, hm]⟩))
    | ok q =>
      obtain ⟨t, m⟩ := q
      exact .inr (.inr (.inr ⟨v1, v2, t, m, h12.1, h12.2, hm, by simp [runBundle, h, hr, hm]⟩))

/-- A cycle whose bundle reads its registers and accesses no memory. -/
theorem runBundle_register {b : ControlBundle} {s : State} {v1 v2 : Word} (w : Word)
    (hs : b.sys = .none) (hm : b.memOp = .none) (h1 : s.regRead b.rs1 = .ok v1)
    (h2 : s.regRead b.rs2 = .ok v2) :
    runBundle w b s = endOfCycle (writebackStage b 0#32 (executeStage b v1 v2 s)) := by
  simp [runBundle, sysPhase, hs, readPhase_ok.2 ⟨h1, h2⟩, memoryStage_none hm]

/-- A cycle whose bundle reads memory. -/
theorem runBundle_load {b : ControlBundle} {s : State} {v1 v2 m : Word} {n : Width} (w : Word)
    (hs : b.sys = .none) (hm : b.memOp = .read) (hn : b.memWidth = some n)
    (h1 : s.regRead b.rs1 = .ok v1) (h2 : s.regRead b.rs2 = .ok v2)
    (hb : s.busRead (executeStage b v1 v2 s).aluLatch n b.memSigned = .ok m) :
    runBundle w b s = endOfCycle (writebackStage b m (executeStage b v1 v2 s)) := by
  have hb' := (busRead_congr (s := s) (t := executeStage b v1 v2 s) rfl rfl _ n b.memSigned).trans hb
  have hmem : memoryStage w b v2 (executeStage b v1 v2 s) = .ok (executeStage b v1 v2 s, m) := by
    simp only [memoryStage, hm, hn, hb']
  simp [runBundle, sysPhase, hs, readPhase_ok.2 ⟨h1, h2⟩, hmem]

/-- A cycle whose bundle writes memory or the console. -/
theorem runBundle_store {b : ControlBundle} {s t : State} {v1 v2 : Word} {n : Width} (w : Word)
    (hs : b.sys = .none) (hm : b.memOp = .write) (hn : b.memWidth = some n) (hw : b.regWe = false)
    (h1 : s.regRead b.rs1 = .ok v1) (h2 : s.regRead b.rs2 = .ok v2)
    (hb : (executeStage b v1 v2 s).busWrite (executeStage b v1 v2 s).aluLatch n v2 = .ok t) :
    runBundle w b s = endOfCycle t := by
  have hmem : memoryStage w b v2 (executeStage b v1 v2 s) = .ok (t, 0#32) := by
    simp only [memoryStage, hm, hn, hb]
  simp [runBundle, sysPhase, hs, readPhase_ok.2 ⟨h1, h2⟩, hmem, writebackStage, hw]

/-- A cycle whose first source register cannot be read. -/
theorem runBundle_unreadable1 {b : ControlBundle} {s : State} {r : RegIdx} (w : Word)
    (hs : b.sys = .none) (h1 : b.rs1 = some r) (hu : s.regUnreadable r = true) :
    runBundle w b s = s.decodeFault .uninitRegRead w (some r) := by
  simp [runBundle, sysPhase, hs, readPhase, h1, regRead_fault hu]

/-- A cycle whose second source register alone cannot be read. -/
theorem runBundle_unreadable2 {b : ControlBundle} {s : State} {r : RegIdx} {v1 : Word} (w : Word)
    (hs : b.sys = .none) (h1 : s.regRead b.rs1 = .ok v1) (h2 : b.rs2 = some r)
    (hu : s.regUnreadable r = true) :
    runBundle w b s = s.decodeFault .uninitRegRead w (some r) := by
  simp [runBundle, sysPhase, hs, readPhase, h1, h2, regRead_fault hu]

/-- A cycle whose memory access faults. -/
theorem runBundle_busFault {b : ControlBundle} {s : State} {v1 v2 : Word} {n : Width}
    {k : FaultKind} (w : Word) (hs : b.sys = .none) (hn : b.memWidth = some n)
    (h1 : s.regRead b.rs1 = .ok v1) (h2 : s.regRead b.rs2 = .ok v2)
    (hb : (b.memOp = .read ∧ (executeStage b v1 v2 s).busRead
        (executeStage b v1 v2 s).aluLatch n b.memSigned = .error k) ∨
      (b.memOp = .write ∧ (executeStage b v1 v2 s).busWrite
        (executeStage b v1 v2 s).aluLatch n v2 = .error k)) :
    runBundle w b s = (executeStage b v1 v2 s).raise k .memory (some w)
      (some (executeStage b v1 v2 s).aluLatch) none := by
  have hmem : memoryStage w b v2 (executeStage b v1 v2 s) =
      .error ((executeStage b v1 v2 s).raise k .memory (some w)
        (some (executeStage b v1 v2 s).aluLatch) none) := by
    obtain ⟨hm, hb⟩ | ⟨hm, hb⟩ := hb <;> simp only [memoryStage, hm, hn, hb]
  simp [runBundle, sysPhase, hs, readPhase_ok.2 ⟨h1, h2⟩, hmem]

end Sys2Proof.Machine
end

