-- ==== Sys2Proof/Laws/Dispatch.lean ====
section
/-! SUPPORT. The meaning of an instruction as its bundle, and what a step can do. -/

namespace Sys2Proof.Machine

/-- The bundle each meaning runs. -/
def bundleOf : Instr → ControlBundle
  | .add rd rs1 rs2 => bundleR .add rd rs1 rs2
  | .sub rd rs1 rs2 => bundleR .sub rd rs1 rs2
  | .sll rd rs1 rs2 => bundleR .sll rd rs1 rs2
  | .slt rd rs1 rs2 => bundleR .slt rd rs1 rs2
  | .sltu rd rs1 rs2 => bundleR .sltu rd rs1 rs2
  | .xor rd rs1 rs2 => bundleR .xor rd rs1 rs2
  | .srl rd rs1 rs2 => bundleR .srl rd rs1 rs2
  | .sra rd rs1 rs2 => bundleR .sra rd rs1 rs2
  | .or rd rs1 rs2 => bundleR .or rd rs1 rs2
  | .and rd rs1 rs2 => bundleR .and rd rs1 rs2
  | .addi rd rs1 imm => bundleI .add rd rs1 (imm.signExtend 32)
  | .slti rd rs1 imm => bundleI .slt rd rs1 (imm.signExtend 32)
  | .sltiu rd rs1 imm => bundleI .sltu rd rs1 (imm.signExtend 32)
  | .xori rd rs1 imm => bundleI .xor rd rs1 (imm.signExtend 32)
  | .ori rd rs1 imm => bundleI .or rd rs1 (imm.signExtend 32)
  | .andi rd rs1 imm => bundleI .and rd rs1 (imm.signExtend 32)
  | .slli rd rs1 shamt => bundleI .sll rd rs1 ((0b0000000#7 ++ shamt : BitVec 12).signExtend 32)
  | .srli rd rs1 shamt => bundleI .srl rd rs1 ((0b0000000#7 ++ shamt : BitVec 12).signExtend 32)
  | .srai rd rs1 shamt => bundleI .sra rd rs1 ((0b0100000#7 ++ shamt : BitVec 12).signExtend 32)
  | .lui rd imm => bundleU .none .passB rd imm
  | .auipc rd imm => bundleU .pc .add rd imm
  | .jal rd off => bundleJump .pc rd none (off.signExtend 32)
  | .jalr rd rs1 off => bundleJump .reg rd (some rs1) (off.signExtend 32)
  | .beq rs1 rs2 off => bundleBranch .eq false rs1 rs2 off
  | .bne rs1 rs2 off => bundleBranch .ne false rs1 rs2 off
  | .blt rs1 rs2 off => bundleBranch .lt false rs1 rs2 off
  | .bge rs1 rs2 off => bundleBranch .ge false rs1 rs2 off
  | .bltu rs1 rs2 off => bundleBranch .lt true rs1 rs2 off
  | .bgeu rs1 rs2 off => bundleBranch .ge true rs1 rs2 off
  | .lb rd rs1 off => bundleLoad .byte true rd rs1 off
  | .lh rd rs1 off => bundleLoad .half true rd rs1 off
  | .lw rd rs1 off => bundleLoad .word true rd rs1 off
  | .lbu rd rs1 off => bundleLoad .byte false rd rs1 off
  | .lhu rd rs1 off => bundleLoad .half false rd rs1 off
  | .sb rs1 rs2 off => bundleStore .byte rs1 rs2 off
  | .sh rs1 rs2 off => bundleStore .half rs1 rs2 off
  | .sw rs1 rs2 off => bundleStore .word rs1 rs2 off
  | .fence _ _ => bundleSys .none
  | .ecall => bundleSys .ecall
  | .ebreak => bundleSys .ebreak

/-- The instructions that exist only under `P_SLT` = present (30_encoding.md R121). -/
def isSlt : Instr → Bool
  | .slt _ _ _ | .sltu _ _ _ | .slti _ _ _ | .sltiu _ _ _ => true
  | _ => false

/-- An instruction either does not exist on this machine, or runs its bundle. -/
theorem exec_eq (i : Instr) (s : State) : exec i s =
    .next (if isSlt i = true ∧ s.cfg.slt = .absent
      then s.decodeFault .invalidArgument (encode i) none
      else runBundle (encode i) (bundleOf i) s) := by
  have gate : ∀ j b, runSltInstr j b s = .next (if s.cfg.slt = .absent
      then s.decodeFault .invalidArgument (encode j) none else runBundle (encode j) b s) := by
    intro j b
    unfold runSltInstr
    cases s.cfg.slt <;> rfl
  cases i <;> first
    | exact (gate _ _).trans (by simp [isSlt, bundleOf])
    | (simp only [isSlt, Bool.false_eq_true, false_and, if_false]; rfl)

/-- An instruction that exists runs its bundle. -/
theorem exec_runs {i : Instr} {s : State} (h : isSlt i = true → s.cfg.slt = .present) :
    exec i s = .next (runBundle (encode i) (bundleOf i) s) := by
  rw [exec_eq, if_neg]
  rintro ⟨h1, h2⟩
  rw [h h1] at h2
  cases h2

/-- All that a step that answers a next state can do. -/
theorem step_cases {s t : State} (h : step s = .next t) : s.isRunning = true ∧
    ((∃ k, s.busRead s.nextPc .word false = .error k ∧
        t = State.raise { s with pc := s.nextPc } k .fetch none (some s.nextPc) none) ∨
      (∃ w, s.busRead s.nextPc .word false = .ok w ∧ decode w = none ∧
        t = State.decodeFault { s with pc := s.nextPc } .invalidArgument w none) ∨
      (∃ w i, s.busRead s.nextPc .word false = .ok w ∧ decode w = some i ∧
        exec i { s with pc := s.nextPc } = .next t)) := by
  unfold step at h
  split at h
  · next hr =>
    refine ⟨hr, ?_⟩
    cases hf : fetchStage s with
    | error u =>
      obtain ⟨k, hk, rfl⟩ := fetchStage_error.1 hf
      rw [hf] at h
      cases h
      exact .inl ⟨k, hk, rfl⟩
    | ok p =>
      obtain ⟨s1, w⟩ := p
      obtain ⟨rfl, hw⟩ := fetchStage_ok.1 hf
      simp only [hf] at h
      cases hd : decode w with
      | none =>
        simp only [hd] at h
        cases h
        exact .inr (.inl ⟨w, hw, hd, rfl⟩)
      | some i =>
        simp only [hd] at h
        exact .inr (.inr ⟨w, i, hw, hd, h⟩)
  · cases h

/-! ## Selector combinations that no bundle has -/

/-- A bundle whose selectors find what they select: a register write has a source (R156), the memory
source a load, an access a width, and the immediate operand an immediate (log entry 20). -/
structure ControlBundle.Complete (b : ControlBundle) : Prop where
  wbSel : b.regWe = true → b.wbSel ≠ .none
  load : b.wbSel = .mem → b.memOp = .read
  width : b.memOp ≠ .none → b.memWidth ≠ none
  imm : b.bSel = .imm → b.imm ≠ none

theorem bundleOf_complete (i : Instr) : (bundleOf i).Complete := by
  cases i <;> constructor <;>
    simp [bundleOf, bundleR, bundleI, bundleLoad, bundleStore, bundleBranch, bundleU, bundleJump,
      bundleSys]

theorem classBundle_complete {p : SltParam} {f : Fields} {w : Word} {b : ControlBundle}
    (h : classBundle p f w = some b) : b.Complete := by
  cases hc : f.cls <;>
    simp only [classBundle, hc, Option.map_eq_some_iff, Option.ite_none_right_eq_some,
      Option.some.injEq] at h
  case r | i | iLoad | s | b =>
    obtain ⟨_, -, rfl⟩ := h
    constructor <;> simp [emptyBundle, hc, decodeImmediate]
  case uLui | uAuipc | jJal => subst h; constructor <;> simp [emptyBundle, hc, decodeImmediate]
  case iJalr | fence =>
    obtain ⟨-, rfl⟩ := h
    constructor <;> simp [emptyBundle, hc, decodeImmediate]
  case e =>
    (repeat' split at h) <;> cases h <;> constructor <;> simp [emptyBundle]

/-- Every word's bundle is complete, so no run uses a value that log entry 20 chooses. -/
theorem decodeBundle_complete {p : SltParam} {w : Word} {b : ControlBundle}
    (h : decodeBundle p w = some b) : b.Complete := by
  unfold decodeBundle at h
  split at h
  · cases h
  · exact classBundle_complete h

end Sys2Proof.Machine
end

