-- ==== Sys2Proof/Laws/Decode.lean ====
section
/-! SUPPORT. The fields of each format, a word as the format of its own fields, and the masks of the
opcode table as fields. -/

namespace Sys2Proof

/-! ## Registers as fields -/

@[simp] theorem extract_regBits (r : RegIdx) : (regBits r).extractLsb' 0 5 = regBits r := by simp
@[simp] theorem toFin_regBits (r : RegIdx) : (regBits r).toFin = r := rfl
theorem regBits_rdField (w : Word) : regBits (rdField w) = w.extractLsb' 7 5 := rfl
theorem regBits_rs1Field (w : Word) : regBits (rs1Field w) = w.extractLsb' 15 5 := rfl
theorem regBits_rs2Field (w : Word) : regBits (rs2Field w) = w.extractLsb' 20 5 := rfl

/-! ## The R format -/

section FormR
variable (f7 : BitVec 7) (rs2 rs1 : RegIdx) (f3 : BitVec 3) (rd : RegIdx) (op : BitVec 7)

theorem extract_formR_0 : (formR f7 rs2 rs1 f3 rd op).extractLsb' 0 7 = op := by
  unfold formR
  rw [BitVec.extractLsb'_append_eq_of_add_le (by omega)]
  simp
theorem extract_formR_7 : (formR f7 rs2 rs1 f3 rd op).extractLsb' 7 5 = regBits rd := by
  unfold formR
  rw [BitVec.extractLsb'_append_eq_of_le (by omega),
    BitVec.extractLsb'_append_eq_of_add_le (by omega)]
  simp
theorem extract_formR_12 : (formR f7 rs2 rs1 f3 rd op).extractLsb' 12 3 = f3 := by
  unfold formR
  rw [BitVec.extractLsb'_append_eq_of_le (by omega),
    BitVec.extractLsb'_append_eq_of_le (by omega),
    BitVec.extractLsb'_append_eq_of_add_le (by omega)]
  simp
theorem extract_formR_15 : (formR f7 rs2 rs1 f3 rd op).extractLsb' 15 5 = regBits rs1 := by
  unfold formR
  rw [BitVec.extractLsb'_append_eq_of_le (by omega),
    BitVec.extractLsb'_append_eq_of_le (by omega),
    BitVec.extractLsb'_append_eq_of_le (by omega),
    BitVec.extractLsb'_append_eq_of_add_le (by omega)]
  simp
theorem extract_formR_20 : (formR f7 rs2 rs1 f3 rd op).extractLsb' 20 5 = regBits rs2 := by
  unfold formR
  rw [BitVec.extractLsb'_append_eq_of_le (by omega),
    BitVec.extractLsb'_append_eq_of_le (by omega),
    BitVec.extractLsb'_append_eq_of_le (by omega),
    BitVec.extractLsb'_append_eq_of_le (by omega),
    BitVec.extractLsb'_append_eq_of_add_le (by omega)]
  simp
theorem extract_formR_25 : (formR f7 rs2 rs1 f3 rd op).extractLsb' 25 7 = f7 := by
  unfold formR
  rw [BitVec.extractLsb'_append_eq_of_le (by omega),
    BitVec.extractLsb'_append_eq_of_le (by omega),
    BitVec.extractLsb'_append_eq_of_le (by omega),
    BitVec.extractLsb'_append_eq_of_le (by omega),
    BitVec.extractLsb'_append_eq_of_le (by omega)]
  simp

@[simp] theorem opcodeField_formR : opcodeField (formR f7 rs2 rs1 f3 rd op) = op := extract_formR_0 ..
@[simp] theorem funct3Field_formR : funct3Field (formR f7 rs2 rs1 f3 rd op) = f3 := extract_formR_12 ..
@[simp] theorem rs1Field_formR : rs1Field (formR f7 rs2 rs1 f3 rd op) = rs1 := by
  unfold rs1Field; rw [extract_formR_15]; rfl
@[simp] theorem rs2Field_formR : rs2Field (formR f7 rs2 rs1 f3 rd op) = rs2 := by
  unfold rs2Field; rw [extract_formR_20]; rfl
@[simp] theorem rdField_formR : rdField (formR f7 rs2 rs1 f3 rd op) = rd := by
  unfold rdField; rw [extract_formR_7]; rfl
@[simp] theorem funct7Field_formR : funct7Field (formR f7 rs2 rs1 f3 rd op) = f7 := extract_formR_25 ..

end FormR

/-! ## The I format -/

section FormI
variable (imm : BitVec 12) (rs1 : RegIdx) (f3 : BitVec 3) (rd : RegIdx) (op : BitVec 7)

theorem extract_formI_0 : (formI imm rs1 f3 rd op).extractLsb' 0 7 = op := by
  unfold formI
  rw [BitVec.extractLsb'_append_eq_of_add_le (by omega)]
  simp
theorem extract_formI_7 : (formI imm rs1 f3 rd op).extractLsb' 7 5 = regBits rd := by
  unfold formI
  rw [BitVec.extractLsb'_append_eq_of_le (by omega),
    BitVec.extractLsb'_append_eq_of_add_le (by omega)]
  simp
theorem extract_formI_12 : (formI imm rs1 f3 rd op).extractLsb' 12 3 = f3 := by
  unfold formI
  rw [BitVec.extractLsb'_append_eq_of_le (by omega),
    BitVec.extractLsb'_append_eq_of_le (by omega),
    BitVec.extractLsb'_append_eq_of_add_le (by omega)]
  simp
theorem extract_formI_15 : (formI imm rs1 f3 rd op).extractLsb' 15 5 = regBits rs1 := by
  unfold formI
  rw [BitVec.extractLsb'_append_eq_of_le (by omega),
    BitVec.extractLsb'_append_eq_of_le (by omega),
    BitVec.extractLsb'_append_eq_of_le (by omega),
    BitVec.extractLsb'_append_eq_of_add_le (by omega)]
  simp
theorem extract_formI_20 : (formI imm rs1 f3 rd op).extractLsb' 20 12 = imm := by
  unfold formI
  rw [BitVec.extractLsb'_append_eq_of_le (by omega),
    BitVec.extractLsb'_append_eq_of_le (by omega),
    BitVec.extractLsb'_append_eq_of_le (by omega),
    BitVec.extractLsb'_append_eq_of_le (by omega)]
  simp

@[simp] theorem opcodeField_formI : opcodeField (formI imm rs1 f3 rd op) = op := extract_formI_0 ..
@[simp] theorem funct3Field_formI : funct3Field (formI imm rs1 f3 rd op) = f3 := extract_formI_12 ..
@[simp] theorem rs1Field_formI : rs1Field (formI imm rs1 f3 rd op) = rs1 := by
  unfold rs1Field; rw [extract_formI_15]; rfl
@[simp] theorem rdField_formI : rdField (formI imm rs1 f3 rd op) = rd := by
  unfold rdField; rw [extract_formI_7]; rfl
@[simp] theorem rawI_formI : rawI (formI imm rs1 f3 rd op) = imm := extract_formI_20 ..
theorem top_formI : (formI imm rs1 f3 rd op).extractLsb' 25 7 = imm.extractLsb' 5 7 := by
  have h : (formI imm rs1 f3 rd op).extractLsb' 25 7 = ((formI imm rs1 f3 rd op).extractLsb' 20 12).extractLsb' 5 7 := by
    ext j hj
    simp [show 5 + j < 12 by omega, show 20 + (5 + j) = 25 + j by omega]
  rw [h, extract_formI_20]
theorem low_formI : (formI imm rs1 f3 rd op).extractLsb' 20 5 = imm.extractLsb' 0 5 := by
  have h : (formI imm rs1 f3 rd op).extractLsb' 20 5 = ((formI imm rs1 f3 rd op).extractLsb' 20 12).extractLsb' 0 5 := by
    ext j hj
    simp [show j < 12 by omega]
  rw [h, extract_formI_20]

end FormI

/-! ## The S format -/

section FormS
variable (imm : BitVec 12) (rs2 rs1 : RegIdx) (f3 : BitVec 3) (op : BitVec 7)

theorem extract_formS_0 : (formS imm rs2 rs1 f3 op).extractLsb' 0 7 = op := by
  unfold formS
  rw [BitVec.extractLsb'_append_eq_of_add_le (by omega)]
  simp
theorem extract_formS_7 : (formS imm rs2 rs1 f3 op).extractLsb' 7 5 = imm.extractLsb' 0 5 := by
  unfold formS
  rw [BitVec.extractLsb'_append_eq_of_le (by omega),
    BitVec.extractLsb'_append_eq_of_add_le (by omega)]
  simp
theorem extract_formS_12 : (formS imm rs2 rs1 f3 op).extractLsb' 12 3 = f3 := by
  unfold formS
  rw [BitVec.extractLsb'_append_eq_of_le (by omega),
    BitVec.extractLsb'_append_eq_of_le (by omega),
    BitVec.extractLsb'_append_eq_of_add_le (by omega)]
  simp
theorem extract_formS_15 : (formS imm rs2 rs1 f3 op).extractLsb' 15 5 = regBits rs1 := by
  unfold formS
  rw [BitVec.extractLsb'_append_eq_of_le (by omega),
    BitVec.extractLsb'_append_eq_of_le (by omega),
    BitVec.extractLsb'_append_eq_of_le (by omega),
    BitVec.extractLsb'_append_eq_of_add_le (by omega)]
  simp
theorem extract_formS_20 : (formS imm rs2 rs1 f3 op).extractLsb' 20 5 = regBits rs2 := by
  unfold formS
  rw [BitVec.extractLsb'_append_eq_of_le (by omega),
    BitVec.extractLsb'_append_eq_of_le (by omega),
    BitVec.extractLsb'_append_eq_of_le (by omega),
    BitVec.extractLsb'_append_eq_of_le (by omega),
    BitVec.extractLsb'_append_eq_of_add_le (by omega)]
  simp
theorem extract_formS_25 : (formS imm rs2 rs1 f3 op).extractLsb' 25 7 = imm.extractLsb' 5 7 := by
  unfold formS
  rw [BitVec.extractLsb'_append_eq_of_le (by omega),
    BitVec.extractLsb'_append_eq_of_le (by omega),
    BitVec.extractLsb'_append_eq_of_le (by omega),
    BitVec.extractLsb'_append_eq_of_le (by omega),
    BitVec.extractLsb'_append_eq_of_le (by omega)]
  simp

@[simp] theorem opcodeField_formS : opcodeField (formS imm rs2 rs1 f3 op) = op := extract_formS_0 ..
@[simp] theorem funct3Field_formS : funct3Field (formS imm rs2 rs1 f3 op) = f3 := extract_formS_12 ..
@[simp] theorem rs1Field_formS : rs1Field (formS imm rs2 rs1 f3 op) = rs1 := by
  unfold rs1Field; rw [extract_formS_15]; rfl
@[simp] theorem rs2Field_formS : rs2Field (formS imm rs2 rs1 f3 op) = rs2 := by
  unfold rs2Field; rw [extract_formS_20]; rfl
@[simp] theorem rawS_formS : rawS (formS imm rs2 rs1 f3 op) = imm := by
  unfold rawS
  rw [extract_formS_25, extract_formS_7]
  ext j hj
  rw [BitVec.getElem_append]
  split <;> rw [BitVec.getElem_extractLsb', BitVec.getLsbD_eq_getElem (by omega)] <;>
    congr 1 <;> omega

end FormS

/-! ## The B format -/

section FormB
variable (off : BitVec 13) (rs2 rs1 : RegIdx) (f3 : BitVec 3) (op : BitVec 7)

theorem extract_formB_0 : (formB off rs2 rs1 f3 op).extractLsb' 0 7 = op := by
  unfold formB
  rw [BitVec.extractLsb'_append_eq_of_add_le (by omega)]
  simp
theorem extract_formB_7 : (formB off rs2 rs1 f3 op).extractLsb' 7 1 = off.extractLsb' 11 1 := by
  unfold formB
  rw [BitVec.extractLsb'_append_eq_of_le (by omega),
    BitVec.extractLsb'_append_eq_of_add_le (by omega)]
  simp
theorem extract_formB_8 : (formB off rs2 rs1 f3 op).extractLsb' 8 4 = off.extractLsb' 1 4 := by
  unfold formB
  rw [BitVec.extractLsb'_append_eq_of_le (by omega),
    BitVec.extractLsb'_append_eq_of_le (by omega),
    BitVec.extractLsb'_append_eq_of_add_le (by omega)]
  simp
theorem extract_formB_12 : (formB off rs2 rs1 f3 op).extractLsb' 12 3 = f3 := by
  unfold formB
  rw [BitVec.extractLsb'_append_eq_of_le (by omega),
    BitVec.extractLsb'_append_eq_of_le (by omega),
    BitVec.extractLsb'_append_eq_of_le (by omega),
    BitVec.extractLsb'_append_eq_of_add_le (by omega)]
  simp
theorem extract_formB_15 : (formB off rs2 rs1 f3 op).extractLsb' 15 5 = regBits rs1 := by
  unfold formB
  rw [BitVec.extractLsb'_append_eq_of_le (by omega),
    BitVec.extractLsb'_append_eq_of_le (by omega),
    BitVec.extractLsb'_append_eq_of_le (by omega),
    BitVec.extractLsb'_append_eq_of_le (by omega),
    BitVec.extractLsb'_append_eq_of_add_le (by omega)]
  simp
theorem extract_formB_20 : (formB off rs2 rs1 f3 op).extractLsb' 20 5 = regBits rs2 := by
  unfold formB
  rw [BitVec.extractLsb'_append_eq_of_le (by omega),
    BitVec.extractLsb'_append_eq_of_le (by omega),
    BitVec.extractLsb'_append_eq_of_le (by omega),
    BitVec.extractLsb'_append_eq_of_le (by omega),
    BitVec.extractLsb'_append_eq_of_le (by omega),
    BitVec.extractLsb'_append_eq_of_add_le (by omega)]
  simp
theorem extract_formB_25 : (formB off rs2 rs1 f3 op).extractLsb' 25 6 = off.extractLsb' 5 6 := by
  unfold formB
  rw [BitVec.extractLsb'_append_eq_of_le (by omega),
    BitVec.extractLsb'_append_eq_of_le (by omega),
    BitVec.extractLsb'_append_eq_of_le (by omega),
    BitVec.extractLsb'_append_eq_of_le (by omega),
    BitVec.extractLsb'_append_eq_of_le (by omega),
    BitVec.extractLsb'_append_eq_of_le (by omega),
    BitVec.extractLsb'_append_eq_of_add_le (by omega)]
  simp
theorem extract_formB_31 : (formB off rs2 rs1 f3 op).extractLsb' 31 1 = off.extractLsb' 12 1 := by
  unfold formB
  rw [BitVec.extractLsb'_append_eq_of_le (by omega),
    BitVec.extractLsb'_append_eq_of_le (by omega),
    BitVec.extractLsb'_append_eq_of_le (by omega),
    BitVec.extractLsb'_append_eq_of_le (by omega),
    BitVec.extractLsb'_append_eq_of_le (by omega),
    BitVec.extractLsb'_append_eq_of_le (by omega),
    BitVec.extractLsb'_append_eq_of_le (by omega)]
  simp

@[simp] theorem opcodeField_formB : opcodeField (formB off rs2 rs1 f3 op) = op := extract_formB_0 ..
@[simp] theorem funct3Field_formB : funct3Field (formB off rs2 rs1 f3 op) = f3 := extract_formB_12 ..
@[simp] theorem rs1Field_formB : rs1Field (formB off rs2 rs1 f3 op) = rs1 := by
  unfold rs1Field; rw [extract_formB_15]; rfl
@[simp] theorem rs2Field_formB : rs2Field (formB off rs2 rs1 f3 op) = rs2 := by
  unfold rs2Field; rw [extract_formB_20]; rfl
theorem rawB_formB (h : evenOffset off = true) : rawB (formB off rs2 rs1 f3 op) = off := by
  have h0 : off.getLsbD 0 = false := by simpa [evenOffset] using h
  unfold rawB
  rw [extract_formB_31, extract_formB_7, extract_formB_25, extract_formB_8]
  ext j hj
  repeat' (rw [BitVec.getElem_append]; split)
  · obtain rfl : j = 0 := by omega
    simpa using h0.symm
  all_goals
    rw [BitVec.getElem_extractLsb', BitVec.getLsbD_eq_getElem (by omega)]
    congr 1; omega

end FormB

/-! ## The U format -/

section FormU
variable (imm : BitVec 20) (rd : RegIdx) (op : BitVec 7)

theorem extract_formU_0 : (formU imm rd op).extractLsb' 0 7 = op := by
  unfold formU
  rw [BitVec.extractLsb'_append_eq_of_add_le (by omega)]
  simp
theorem extract_formU_7 : (formU imm rd op).extractLsb' 7 5 = regBits rd := by
  unfold formU
  rw [BitVec.extractLsb'_append_eq_of_le (by omega),
    BitVec.extractLsb'_append_eq_of_add_le (by omega)]
  simp
theorem extract_formU_12 : (formU imm rd op).extractLsb' 12 20 = imm := by
  unfold formU
  rw [BitVec.extractLsb'_append_eq_of_le (by omega),
    BitVec.extractLsb'_append_eq_of_le (by omega)]
  simp

@[simp] theorem opcodeField_formU : opcodeField (formU imm rd op) = op := extract_formU_0 ..
@[simp] theorem rdField_formU : rdField (formU imm rd op) = rd := by
  unfold rdField; rw [extract_formU_7]; rfl
@[simp] theorem rawU_formU : rawU (formU imm rd op) = imm := extract_formU_12 ..

end FormU

/-! ## The J format -/

section FormJ
variable (off : BitVec 21) (rd : RegIdx) (op : BitVec 7)

theorem extract_formJ_0 : (formJ off rd op).extractLsb' 0 7 = op := by
  unfold formJ
  rw [BitVec.extractLsb'_append_eq_of_add_le (by omega)]
  simp
theorem extract_formJ_7 : (formJ off rd op).extractLsb' 7 5 = regBits rd := by
  unfold formJ
  rw [BitVec.extractLsb'_append_eq_of_le (by omega),
    BitVec.extractLsb'_append_eq_of_add_le (by omega)]
  simp
theorem extract_formJ_12 : (formJ off rd op).extractLsb' 12 8 = off.extractLsb' 12 8 := by
  unfold formJ
  rw [BitVec.extractLsb'_append_eq_of_le (by omega),
    BitVec.extractLsb'_append_eq_of_le (by omega),
    BitVec.extractLsb'_append_eq_of_add_le (by omega)]
  simp
theorem extract_formJ_20 : (formJ off rd op).extractLsb' 20 1 = off.extractLsb' 11 1 := by
  unfold formJ
  rw [BitVec.extractLsb'_append_eq_of_le (by omega),
    BitVec.extractLsb'_append_eq_of_le (by omega),
    BitVec.extractLsb'_append_eq_of_le (by omega),
    BitVec.extractLsb'_append_eq_of_add_le (by omega)]
  simp
theorem extract_formJ_21 : (formJ off rd op).extractLsb' 21 10 = off.extractLsb' 1 10 := by
  unfold formJ
  rw [BitVec.extractLsb'_append_eq_of_le (by omega),
    BitVec.extractLsb'_append_eq_of_le (by omega),
    BitVec.extractLsb'_append_eq_of_le (by omega),
    BitVec.extractLsb'_append_eq_of_le (by omega),
    BitVec.extractLsb'_append_eq_of_add_le (by omega)]
  simp
theorem extract_formJ_31 : (formJ off rd op).extractLsb' 31 1 = off.extractLsb' 20 1 := by
  unfold formJ
  rw [BitVec.extractLsb'_append_eq_of_le (by omega),
    BitVec.extractLsb'_append_eq_of_le (by omega),
    BitVec.extractLsb'_append_eq_of_le (by omega),
    BitVec.extractLsb'_append_eq_of_le (by omega),
    BitVec.extractLsb'_append_eq_of_le (by omega)]
  simp

@[simp] theorem opcodeField_formJ : opcodeField (formJ off rd op) = op := extract_formJ_0 ..
@[simp] theorem rdField_formJ : rdField (formJ off rd op) = rd := by
  unfold rdField; rw [extract_formJ_7]; rfl
theorem rawJ_formJ (h : evenOffset off = true) : rawJ (formJ off rd op) = off := by
  have h0 : off.getLsbD 0 = false := by simpa [evenOffset] using h
  unfold rawJ
  rw [extract_formJ_31, extract_formJ_12, extract_formJ_20, extract_formJ_21]
  ext j hj
  repeat' (rw [BitVec.getElem_append]; split)
  · obtain rfl : j = 0 := by omega
    simpa using h0.symm
  all_goals
    rw [BitVec.getElem_extractLsb', BitVec.getLsbD_eq_getElem (by omega)]
    congr 1; omega

end FormJ

/-! ## A word is the format of its own fields -/

theorem formR_self (w : Word) : formR (funct7Field w) (rs2Field w) (rs1Field w) (funct3Field w)
    (rdField w) (opcodeField w) = w := by
  show (w.extractLsb' 25 7 ++ w.extractLsb' 20 5 ++ w.extractLsb' 15 5 ++ w.extractLsb' 12 3
    ++ w.extractLsb' 7 5 ++ w.extractLsb' 0 7 : Word) = w
  ext j hj
  repeat' (rw [BitVec.getElem_append]; split)
  all_goals
    rw [BitVec.getElem_extractLsb', BitVec.getLsbD_eq_getElem (by omega)]
    congr 1; omega

theorem formI_self (w : Word) : formI (rawI w) (rs1Field w) (funct3Field w) (rdField w)
    (opcodeField w) = w := by
  show (w.extractLsb' 20 12 ++ w.extractLsb' 15 5 ++ w.extractLsb' 12 3
    ++ w.extractLsb' 7 5 ++ w.extractLsb' 0 7 : Word) = w
  ext j hj
  repeat' (rw [BitVec.getElem_append]; split)
  all_goals
    rw [BitVec.getElem_extractLsb', BitVec.getLsbD_eq_getElem (by omega)]
    congr 1; omega

/-- An I-immediate from its upper 7 and lower 5 bits: the shift instructions' shape (R107). -/
theorem rawI_split (w : Word) : (w.extractLsb' 25 7 ++ w.extractLsb' 20 5 : BitVec 12) = rawI w := by
  unfold rawI
  ext j hj
  rw [BitVec.getElem_append]
  split
  all_goals
    rw [BitVec.getElem_extractLsb', BitVec.getLsbD_eq_getElem (by omega),
      BitVec.getElem_extractLsb', BitVec.getLsbD_eq_getElem (by omega)]
  congr 1; omega

theorem rawS_hi (w : Word) : (rawS w).extractLsb' 5 7 = w.extractLsb' 25 7 := by
  unfold rawS
  rw [BitVec.extractLsb'_append_eq_of_le (by omega)]
  simp

theorem rawS_lo (w : Word) : (rawS w).extractLsb' 0 5 = w.extractLsb' 7 5 := by
  unfold rawS
  rw [BitVec.extractLsb'_append_eq_of_add_le (by omega)]
  simp

theorem formS_self (w : Word) : formS (rawS w) (rs2Field w) (rs1Field w) (funct3Field w)
    (opcodeField w) = w := by
  unfold formS
  rw [rawS_hi, rawS_lo]
  show (w.extractLsb' 25 7 ++ w.extractLsb' 20 5 ++ w.extractLsb' 15 5 ++ w.extractLsb' 12 3
    ++ w.extractLsb' 7 5 ++ w.extractLsb' 0 7 : Word) = w
  ext j hj
  repeat' (rw [BitVec.getElem_append]; split)
  all_goals
    rw [BitVec.getElem_extractLsb', BitVec.getLsbD_eq_getElem (by omega)]
    congr 1; omega

theorem rawB_parts (w : Word) : (rawB w).extractLsb' 12 1 = w.extractLsb' 31 1 ∧
    (rawB w).extractLsb' 5 6 = w.extractLsb' 25 6 ∧ (rawB w).extractLsb' 1 4 = w.extractLsb' 8 4 ∧
    (rawB w).extractLsb' 11 1 = w.extractLsb' 7 1 ∧ evenOffset (rawB w) = true := by
  unfold rawB
  refine ⟨?_, ?_, ?_, ?_, ?_⟩
  · rw [BitVec.extractLsb'_append_eq_of_le (by omega), BitVec.extractLsb'_append_eq_of_le (by omega),
      BitVec.extractLsb'_append_eq_of_le (by omega), BitVec.extractLsb'_append_eq_of_le (by omega)]
    simp
  · rw [BitVec.extractLsb'_append_eq_of_le (by omega), BitVec.extractLsb'_append_eq_of_le (by omega),
      BitVec.extractLsb'_append_eq_of_add_le (by omega)]
    simp
  · rw [BitVec.extractLsb'_append_eq_of_le (by omega),
      BitVec.extractLsb'_append_eq_of_add_le (by omega)]
    simp
  · rw [BitVec.extractLsb'_append_eq_of_le (by omega), BitVec.extractLsb'_append_eq_of_le (by omega),
      BitVec.extractLsb'_append_eq_of_le (by omega),
      BitVec.extractLsb'_append_eq_of_add_le (by omega)]
    simp
  · unfold evenOffset
    rw [BitVec.getLsbD_append]
    simp

theorem formB_self (w : Word) : formB (rawB w) (rs2Field w) (rs1Field w) (funct3Field w)
    (opcodeField w) = w := by
  obtain ⟨h1, h2, h3, h4, -⟩ := rawB_parts w
  unfold formB
  rw [h1, h2, h3, h4]
  show (w.extractLsb' 31 1 ++ w.extractLsb' 25 6 ++ w.extractLsb' 20 5 ++ w.extractLsb' 15 5
    ++ w.extractLsb' 12 3 ++ w.extractLsb' 8 4 ++ w.extractLsb' 7 1 ++ w.extractLsb' 0 7 : Word) = w
  ext j hj
  repeat' (rw [BitVec.getElem_append]; split)
  all_goals
    rw [BitVec.getElem_extractLsb', BitVec.getLsbD_eq_getElem (by omega)]
    congr 1; omega

theorem formU_self (w : Word) : formU (rawU w) (rdField w) (opcodeField w) = w := by
  show (w.extractLsb' 12 20 ++ w.extractLsb' 7 5 ++ w.extractLsb' 0 7 : Word) = w
  ext j hj
  repeat' (rw [BitVec.getElem_append]; split)
  all_goals
    rw [BitVec.getElem_extractLsb', BitVec.getLsbD_eq_getElem (by omega)]
    congr 1; omega

theorem rawJ_parts (w : Word) : (rawJ w).extractLsb' 20 1 = w.extractLsb' 31 1 ∧
    (rawJ w).extractLsb' 1 10 = w.extractLsb' 21 10 ∧ (rawJ w).extractLsb' 11 1 = w.extractLsb' 20 1 ∧
    (rawJ w).extractLsb' 12 8 = w.extractLsb' 12 8 ∧ evenOffset (rawJ w) = true := by
  unfold rawJ
  refine ⟨?_, ?_, ?_, ?_, ?_⟩
  · rw [BitVec.extractLsb'_append_eq_of_le (by omega), BitVec.extractLsb'_append_eq_of_le (by omega),
      BitVec.extractLsb'_append_eq_of_le (by omega), BitVec.extractLsb'_append_eq_of_le (by omega)]
    simp
  · rw [BitVec.extractLsb'_append_eq_of_le (by omega),
      BitVec.extractLsb'_append_eq_of_add_le (by omega)]
    simp
  · rw [BitVec.extractLsb'_append_eq_of_le (by omega), BitVec.extractLsb'_append_eq_of_le (by omega),
      BitVec.extractLsb'_append_eq_of_add_le (by omega)]
    simp
  · rw [BitVec.extractLsb'_append_eq_of_le (by omega), BitVec.extractLsb'_append_eq_of_le (by omega),
      BitVec.extractLsb'_append_eq_of_le (by omega),
      BitVec.extractLsb'_append_eq_of_add_le (by omega)]
    simp
  · unfold evenOffset
    rw [BitVec.getLsbD_append]
    simp

theorem formJ_self (w : Word) : formJ (rawJ w) (rdField w) (opcodeField w) = w := by
  obtain ⟨h1, h2, h3, h4, -⟩ := rawJ_parts w
  unfold formJ
  rw [h1, h2, h3, h4]
  show (w.extractLsb' 31 1 ++ w.extractLsb' 21 10 ++ w.extractLsb' 20 1 ++ w.extractLsb' 12 8
    ++ w.extractLsb' 7 5 ++ w.extractLsb' 0 7 : Word) = w
  ext j hj
  repeat' (rw [BitVec.getElem_append]; split)
  all_goals
    rw [BitVec.getElem_extractLsb', BitVec.getLsbD_eq_getElem (by omega)]
    congr 1; omega

/-- A FENCE word is its ignored bits around funct3 and the opcode (R112). -/
theorem fenceWord_self (w : Word) :
    (w.extractLsb' 15 17 ++ funct3Field w ++ w.extractLsb' 7 5 ++ opcodeField w : Word) = w := by
  unfold funct3Field opcodeField
  ext j hj
  repeat' (rw [BitVec.getElem_append]; split)
  all_goals
    rw [BitVec.getElem_extractLsb', BitVec.getLsbD_eq_getElem (by omega)]
    congr 1; omega

section FenceWord
variable (hi : BitVec 17) (f3 : BitVec 3) (lo : BitVec 5) (op : BitVec 7)

@[simp] theorem opcodeField_fence : opcodeField (hi ++ f3 ++ lo ++ op : Word) = op := by
  unfold opcodeField
  rw [BitVec.extractLsb'_append_eq_of_add_le (by omega)]
  simp
@[simp] theorem funct3Field_fence : funct3Field (hi ++ f3 ++ lo ++ op : Word) = f3 := by
  unfold funct3Field
  rw [BitVec.extractLsb'_append_eq_of_le (by omega), BitVec.extractLsb'_append_eq_of_le (by omega),
    BitVec.extractLsb'_append_eq_of_add_le (by omega)]
  simp
theorem lo_fence : (hi ++ f3 ++ lo ++ op : Word).extractLsb' 7 5 = lo := by
  rw [BitVec.extractLsb'_append_eq_of_le (by omega),
    BitVec.extractLsb'_append_eq_of_add_le (by omega)]
  simp
theorem hi_fence : (hi ++ f3 ++ lo ++ op : Word).extractLsb' 15 17 = hi := by
  rw [BitVec.extractLsb'_append_eq_of_le (by omega), BitVec.extractLsb'_append_eq_of_le (by omega),
    BitVec.extractLsb'_append_eq_of_le (by omega)]
  simp

end FenceWord

/-! ## The masks of the opcode table as fields -/

theorem mask_functs (w : Word) : w &&& 0xFE00707F#32 =
    (funct7Field w ++ 0#10 ++ funct3Field w ++ 0#5 ++ opcodeField w : Word) := by
  unfold funct7Field funct3Field opcodeField
  ext j hj
  repeat' (rw [BitVec.getElem_append]; split)
  all_goals interval_cases j <;> first | omega | simp

theorem mask_funct3 (w : Word) : w &&& 0x0000707F#32 =
    (0#17 ++ funct3Field w ++ 0#5 ++ opcodeField w : Word) := by
  unfold funct3Field opcodeField
  ext j hj
  repeat' (rw [BitVec.getElem_append]; split)
  all_goals interval_cases j <;> first | omega | simp

theorem mask_opcode (w : Word) : w &&& 0x0000007F#32 = (0#25 ++ opcodeField w : Word) := by
  unfold opcodeField
  ext j hj
  repeat' (rw [BitVec.getElem_append]; split)
  all_goals interval_cases j <;> first | omega | simp

/-- A word matches a row whose mask covers the opcode, funct3 and funct7. -/
theorem match_functs {w p : Word} {f7 : BitVec 7} {f3 : BitVec 3} {op : BitVec 7}
    (h7 : funct7Field w = f7) (h3 : funct3Field w = f3) (ho : opcodeField w = op)
    (hp : (f7 ++ 0#10 ++ f3 ++ 0#5 ++ op : Word) = p) : w &&& 0xFE00707F#32 = p := by
  rw [mask_functs, h7, h3, ho, hp]

/-- A word matches a row whose mask covers the opcode and funct3. -/
theorem match_funct3 {w p : Word} {f3 : BitVec 3} {op : BitVec 7} (h3 : funct3Field w = f3)
    (ho : opcodeField w = op) (hp : (0#17 ++ f3 ++ 0#5 ++ op : Word) = p) :
    w &&& 0x0000707F#32 = p := by rw [mask_funct3, h3, ho, hp]

/-- A word matches a row whose mask covers the opcode. -/
theorem match_opcode {w p : Word} {op : BitVec 7} (ho : opcodeField w = op)
    (hp : (0#25 ++ op : Word) = p) : w &&& 0x0000007F#32 = p := by rw [mask_opcode, ho, hp]

/-- The upper 7 bits of a shift instruction's word (R107). -/
theorem funct7Field_shift (top : BitVec 7) (shamt : BitVec 5) (rs1 : RegIdx) (f3 : BitVec 3)
    (rd : RegIdx) (op : BitVec 7) :
    funct7Field (formI (top ++ shamt) rs1 f3 rd op) = top := by
  show (formI _ _ _ _ _).extractLsb' 25 7 = _
  rw [top_formI, BitVec.extractLsb'_append_eq_of_le (by omega)]
  simp

end Sys2Proof
end

