-- ==== Sys2Proof/Laws/PerInstr.lean ====
section
/-! SUPPORT. Per-instruction laws. Family TableRow: the encoder's word matches the instruction's own row
of the opcode table (30_encoding.md R121). -/

namespace Sys2Proof.Laws.TableRow

/-- The encoded word matches a row of the table with the instruction's mnemonic. -/
def Statement (i : Instr) : Prop :=
  ∃ row ∈ opcodeTable, row.mnemonic = i.mnemonic ∧ encode i &&& row.mask = row.pattern

theorem add (rd rs1 rs2 : RegIdx) : Statement (.add rd rs1 rs2) :=
  ⟨⟨"ADD", 0x00000033, 0xFE00707F⟩, by decide, rfl,
    match_functs (funct7Field_formR ..) (funct3Field_formR ..) (opcodeField_formR ..) (by decide)⟩
theorem sub (rd rs1 rs2 : RegIdx) : Statement (.sub rd rs1 rs2) :=
  ⟨⟨"SUB", 0x40000033, 0xFE00707F⟩, by decide, rfl,
    match_functs (funct7Field_formR ..) (funct3Field_formR ..) (opcodeField_formR ..) (by decide)⟩
theorem sll (rd rs1 rs2 : RegIdx) : Statement (.sll rd rs1 rs2) :=
  ⟨⟨"SLL", 0x00001033, 0xFE00707F⟩, by decide, rfl,
    match_functs (funct7Field_formR ..) (funct3Field_formR ..) (opcodeField_formR ..) (by decide)⟩
theorem slt (rd rs1 rs2 : RegIdx) : Statement (.slt rd rs1 rs2) :=
  ⟨⟨"SLT", 0x00002033, 0xFE00707F⟩, by decide, rfl,
    match_functs (funct7Field_formR ..) (funct3Field_formR ..) (opcodeField_formR ..) (by decide)⟩
theorem sltu (rd rs1 rs2 : RegIdx) : Statement (.sltu rd rs1 rs2) :=
  ⟨⟨"SLTU", 0x00003033, 0xFE00707F⟩, by decide, rfl,
    match_functs (funct7Field_formR ..) (funct3Field_formR ..) (opcodeField_formR ..) (by decide)⟩
theorem xor (rd rs1 rs2 : RegIdx) : Statement (.xor rd rs1 rs2) :=
  ⟨⟨"XOR", 0x00004033, 0xFE00707F⟩, by decide, rfl,
    match_functs (funct7Field_formR ..) (funct3Field_formR ..) (opcodeField_formR ..) (by decide)⟩
theorem srl (rd rs1 rs2 : RegIdx) : Statement (.srl rd rs1 rs2) :=
  ⟨⟨"SRL", 0x00005033, 0xFE00707F⟩, by decide, rfl,
    match_functs (funct7Field_formR ..) (funct3Field_formR ..) (opcodeField_formR ..) (by decide)⟩
theorem sra (rd rs1 rs2 : RegIdx) : Statement (.sra rd rs1 rs2) :=
  ⟨⟨"SRA", 0x40005033, 0xFE00707F⟩, by decide, rfl,
    match_functs (funct7Field_formR ..) (funct3Field_formR ..) (opcodeField_formR ..) (by decide)⟩
theorem or (rd rs1 rs2 : RegIdx) : Statement (.or rd rs1 rs2) :=
  ⟨⟨"OR", 0x00006033, 0xFE00707F⟩, by decide, rfl,
    match_functs (funct7Field_formR ..) (funct3Field_formR ..) (opcodeField_formR ..) (by decide)⟩
theorem and (rd rs1 rs2 : RegIdx) : Statement (.and rd rs1 rs2) :=
  ⟨⟨"AND", 0x00007033, 0xFE00707F⟩, by decide, rfl,
    match_functs (funct7Field_formR ..) (funct3Field_formR ..) (opcodeField_formR ..) (by decide)⟩
theorem addi (rd rs1 : RegIdx) (imm : BitVec 12) : Statement (.addi rd rs1 imm) :=
  ⟨⟨"ADDI", 0x00000013, 0x0000707F⟩, by decide, rfl,
    match_funct3 (funct3Field_formI ..) (opcodeField_formI ..) (by decide)⟩
theorem slti (rd rs1 : RegIdx) (imm : BitVec 12) : Statement (.slti rd rs1 imm) :=
  ⟨⟨"SLTI", 0x00002013, 0x0000707F⟩, by decide, rfl,
    match_funct3 (funct3Field_formI ..) (opcodeField_formI ..) (by decide)⟩
theorem sltiu (rd rs1 : RegIdx) (imm : BitVec 12) : Statement (.sltiu rd rs1 imm) :=
  ⟨⟨"SLTIU", 0x00003013, 0x0000707F⟩, by decide, rfl,
    match_funct3 (funct3Field_formI ..) (opcodeField_formI ..) (by decide)⟩
theorem xori (rd rs1 : RegIdx) (imm : BitVec 12) : Statement (.xori rd rs1 imm) :=
  ⟨⟨"XORI", 0x00004013, 0x0000707F⟩, by decide, rfl,
    match_funct3 (funct3Field_formI ..) (opcodeField_formI ..) (by decide)⟩
theorem ori (rd rs1 : RegIdx) (imm : BitVec 12) : Statement (.ori rd rs1 imm) :=
  ⟨⟨"ORI", 0x00006013, 0x0000707F⟩, by decide, rfl,
    match_funct3 (funct3Field_formI ..) (opcodeField_formI ..) (by decide)⟩
theorem andi (rd rs1 : RegIdx) (imm : BitVec 12) : Statement (.andi rd rs1 imm) :=
  ⟨⟨"ANDI", 0x00007013, 0x0000707F⟩, by decide, rfl,
    match_funct3 (funct3Field_formI ..) (opcodeField_formI ..) (by decide)⟩
theorem slli (rd rs1 : RegIdx) (shamt : BitVec 5) : Statement (.slli rd rs1 shamt) :=
  ⟨⟨"SLLI", 0x00001013, 0xFE00707F⟩, by decide, rfl,
    match_functs (funct7Field_shift ..) (funct3Field_formI ..) (opcodeField_formI ..) (by decide)⟩
theorem srli (rd rs1 : RegIdx) (shamt : BitVec 5) : Statement (.srli rd rs1 shamt) :=
  ⟨⟨"SRLI", 0x00005013, 0xFE00707F⟩, by decide, rfl,
    match_functs (funct7Field_shift ..) (funct3Field_formI ..) (opcodeField_formI ..) (by decide)⟩
theorem srai (rd rs1 : RegIdx) (shamt : BitVec 5) : Statement (.srai rd rs1 shamt) :=
  ⟨⟨"SRAI", 0x40005013, 0xFE00707F⟩, by decide, rfl,
    match_functs (funct7Field_shift ..) (funct3Field_formI ..) (opcodeField_formI ..) (by decide)⟩
theorem lui (rd : RegIdx) (imm : BitVec 20) : Statement (.lui rd imm) :=
  ⟨⟨"LUI", 0x00000037, 0x0000007F⟩, by decide, rfl,
    match_opcode (opcodeField_formU ..) (by decide)⟩
theorem auipc (rd : RegIdx) (imm : BitVec 20) : Statement (.auipc rd imm) :=
  ⟨⟨"AUIPC", 0x00000017, 0x0000007F⟩, by decide, rfl,
    match_opcode (opcodeField_formU ..) (by decide)⟩
theorem jal (rd : RegIdx) (off : BitVec 21) : Statement (.jal rd off) :=
  ⟨⟨"JAL", 0x0000006F, 0x0000007F⟩, by decide, rfl,
    match_opcode (opcodeField_formJ ..) (by decide)⟩
theorem jalr (rd rs1 : RegIdx) (off : BitVec 12) : Statement (.jalr rd rs1 off) :=
  ⟨⟨"JALR", 0x00000067, 0x0000707F⟩, by decide, rfl,
    match_funct3 (funct3Field_formI ..) (opcodeField_formI ..) (by decide)⟩
theorem beq (rs1 rs2 : RegIdx) (off : BitVec 13) : Statement (.beq rs1 rs2 off) :=
  ⟨⟨"BEQ", 0x00000063, 0x0000707F⟩, by decide, rfl,
    match_funct3 (funct3Field_formB ..) (opcodeField_formB ..) (by decide)⟩
theorem bne (rs1 rs2 : RegIdx) (off : BitVec 13) : Statement (.bne rs1 rs2 off) :=
  ⟨⟨"BNE", 0x00001063, 0x0000707F⟩, by decide, rfl,
    match_funct3 (funct3Field_formB ..) (opcodeField_formB ..) (by decide)⟩
theorem blt (rs1 rs2 : RegIdx) (off : BitVec 13) : Statement (.blt rs1 rs2 off) :=
  ⟨⟨"BLT", 0x00004063, 0x0000707F⟩, by decide, rfl,
    match_funct3 (funct3Field_formB ..) (opcodeField_formB ..) (by decide)⟩
theorem bge (rs1 rs2 : RegIdx) (off : BitVec 13) : Statement (.bge rs1 rs2 off) :=
  ⟨⟨"BGE", 0x00005063, 0x0000707F⟩, by decide, rfl,
    match_funct3 (funct3Field_formB ..) (opcodeField_formB ..) (by decide)⟩
theorem bltu (rs1 rs2 : RegIdx) (off : BitVec 13) : Statement (.bltu rs1 rs2 off) :=
  ⟨⟨"BLTU", 0x00006063, 0x0000707F⟩, by decide, rfl,
    match_funct3 (funct3Field_formB ..) (opcodeField_formB ..) (by decide)⟩
theorem bgeu (rs1 rs2 : RegIdx) (off : BitVec 13) : Statement (.bgeu rs1 rs2 off) :=
  ⟨⟨"BGEU", 0x00007063, 0x0000707F⟩, by decide, rfl,
    match_funct3 (funct3Field_formB ..) (opcodeField_formB ..) (by decide)⟩
theorem lb (rd rs1 : RegIdx) (off : BitVec 12) : Statement (.lb rd rs1 off) :=
  ⟨⟨"LB", 0x00000003, 0x0000707F⟩, by decide, rfl,
    match_funct3 (funct3Field_formI ..) (opcodeField_formI ..) (by decide)⟩
theorem lh (rd rs1 : RegIdx) (off : BitVec 12) : Statement (.lh rd rs1 off) :=
  ⟨⟨"LH", 0x00001003, 0x0000707F⟩, by decide, rfl,
    match_funct3 (funct3Field_formI ..) (opcodeField_formI ..) (by decide)⟩
theorem lw (rd rs1 : RegIdx) (off : BitVec 12) : Statement (.lw rd rs1 off) :=
  ⟨⟨"LW", 0x00002003, 0x0000707F⟩, by decide, rfl,
    match_funct3 (funct3Field_formI ..) (opcodeField_formI ..) (by decide)⟩
theorem lbu (rd rs1 : RegIdx) (off : BitVec 12) : Statement (.lbu rd rs1 off) :=
  ⟨⟨"LBU", 0x00004003, 0x0000707F⟩, by decide, rfl,
    match_funct3 (funct3Field_formI ..) (opcodeField_formI ..) (by decide)⟩
theorem lhu (rd rs1 : RegIdx) (off : BitVec 12) : Statement (.lhu rd rs1 off) :=
  ⟨⟨"LHU", 0x00005003, 0x0000707F⟩, by decide, rfl,
    match_funct3 (funct3Field_formI ..) (opcodeField_formI ..) (by decide)⟩
theorem sb (rs1 rs2 : RegIdx) (off : BitVec 12) : Statement (.sb rs1 rs2 off) :=
  ⟨⟨"SB", 0x00000023, 0x0000707F⟩, by decide, rfl,
    match_funct3 (funct3Field_formS ..) (opcodeField_formS ..) (by decide)⟩
theorem sh (rs1 rs2 : RegIdx) (off : BitVec 12) : Statement (.sh rs1 rs2 off) :=
  ⟨⟨"SH", 0x00001023, 0x0000707F⟩, by decide, rfl,
    match_funct3 (funct3Field_formS ..) (opcodeField_formS ..) (by decide)⟩
theorem sw (rs1 rs2 : RegIdx) (off : BitVec 12) : Statement (.sw rs1 rs2 off) :=
  ⟨⟨"SW", 0x00002023, 0x0000707F⟩, by decide, rfl,
    match_funct3 (funct3Field_formS ..) (opcodeField_formS ..) (by decide)⟩
theorem fence (hi : BitVec 17) (lo : BitVec 5) : Statement (.fence hi lo) :=
  ⟨⟨"FENCE", 0x0000000F, 0x0000707F⟩, by decide, rfl,
    match_funct3 (funct3Field_fence ..) (opcodeField_fence ..) (by decide)⟩
theorem ecall : Statement .ecall :=
  ⟨⟨"ECALL", 0x00000073, 0xFFFFFFFF⟩, by decide, rfl,
    by decide⟩
theorem ebreak : Statement .ebreak :=
  ⟨⟨"EBREAK", 0x00100073, 0xFFFFFFFF⟩, by decide, rfl,
    by decide⟩

end Sys2Proof.Laws.TableRow
end

