-- ==== Sys2Proof/Tests/Slice0.lean ====
section
/-! SUPPORT. Tests. Expected values come from the tables of 95_test_vectors.md unless a comment names
another rule; the words are the spec's. The witnesses, at the end, meet the hypotheses of the
obligations. -/

namespace Sys2Proof.Tests

open Sys2Proof.Machine Sys2Proof.Claims

/-! ## The common set-up of 95_test_vectors.md part 0 -/

/-- `MEM_SIZE` = 0x1000 and so on, with the defaults of 00_scope.md R5. -/
def vec : Config := resetConfig.withDefaults
def vecSlt : Config := { vec with slt := .present }
def vecNop : Config := { vec with ecall := .nop }
def vecDraw : Config := { vec with uninitReg := .draw, uninitMem := .draw }

/-- The reset state with registers marked written and bytes 0x200..0x203 = 80 FF 34 12. -/
def base (c : Config) (regs : List (RegIdx × Word)) : State :=
  let s := regs.foldl (fun s p => s.regWrite (some p.1) p.2 true) (State.resetWith c)
  { s with mem := [(0x200, 0x80#8), (0x201, 0xFF#8), (0x202, 0x34#8), (0x203, 0x12#8)] }

/-- The state in which the instruction at 0x100 executes. -/
def at100 (c : Config) (regs : List (RegIdx × Word)) : State := { base c regs with pc := 0x100#32 }

/-- `base` with the word placed at 0x100. -/
def ready (c : Config) (regs : List (RegIdx × Word)) (w : Word) : State :=
  (base c regs).placeWord 0x100#32 w

def ran (s : State) : Option State :=
  match step s with
  | .next t => some t
  | .fault _ => none
  | .refused _ => none

/-- Register `r`, the next fetch address and the status after one step. -/
def sees (c : Config) (regs : List (RegIdx × Word)) (w : Word) (r : RegIdx) :
    Option (Word × Word × Status) :=
  (ran (ready c regs w)).map fun t => (t.regValue r, t.nextPc, t.status)

/-- What `sees` gives for a cycle that completes and goes on at 0x104. -/
def goes (v : Word) : Option (Word × Word × Status) := some (v, 0x104#32, .running)

/-- The next fetch address after one step that completes. -/
def fetches (regs : List (RegIdx × Word)) (w : Word) : Option Word :=
  (ran (ready vec regs w)).map fun t => t.nextPc

/-- Memory bytes 0x200 up and the console after one step that completes. -/
def leaves (regs : List (RegIdx × Word)) (w : Word) : Option (List (Option Byte) × List Byte) :=
  (ran (ready vec regs w)).map fun t => ((List.range 8).map (fun i => t.mem.get? (0x200 + i)), t.consoleOut)

/-- The fault record after one step. -/
def faults (c : Config) (regs : List (RegIdx × Word)) (w : Word) : Option FaultRecord :=
  (ran (ready c regs w)).bind fun t => t.fault

/-- The record of a fault at 0x100 of word `w`. -/
def record (k : FaultKind) (st : Stage) (w : Word) (addr : Option Word) (reg : Option RegIdx) :
    Option FaultRecord :=
  some { kind := k, stage := st, pc := 0x100#32, word := some w, addr := addr, reg := reg }

/-! ## WellFormed: each check refuses an ill-formed term -/

theorem smoke_jal_odd : (Instr.jal 1 1#21).wf = false := by decide
theorem smoke_beq_odd : (Instr.beq 1 2 1#13).wf = false := by decide
theorem smoke_bne_odd : (Instr.bne 1 2 3#13).wf = false := by decide
theorem smoke_blt_odd : (Instr.blt 1 2 5#13).wf = false := by decide
theorem smoke_bge_odd : (Instr.bge 1 2 (-1#13)).wf = false := by decide
theorem smoke_bltu_odd : (Instr.bltu 1 2 7#13).wf = false := by decide
theorem smoke_bgeu_odd : (Instr.bgeu 1 2 0xFFF#13).wf = false := by decide
theorem smoke_even : (Instr.jal 1 (-2#21)).wf = true ∧ (Instr.bgeu 1 2 0x800#13).wf = true := by decide

/-! ## Decoding: a written-out word for every constructor -/

theorem test_decode_R :
    decode 0x002081B3#32 = some (.add 3 1 2) ∧ decode 0x402081B3#32 = some (.sub 3 1 2) ∧
    decode 0x002091B3#32 = some (.sll 3 1 2) ∧ decode 0x0020A1B3#32 = some (.slt 3 1 2) ∧
    decode 0x0020B1B3#32 = some (.sltu 3 1 2) ∧ decode 0x0020C1B3#32 = some (.xor 3 1 2) ∧
    decode 0x0020D1B3#32 = some (.srl 3 1 2) ∧ decode 0x4020D1B3#32 = some (.sra 3 1 2) ∧
    decode 0x0020E1B3#32 = some (.or 3 1 2) ∧ decode 0x0020F1B3#32 = some (.and 3 1 2) := by decide

theorem test_decode_I :
    decode 0x7FF08193#32 = some (.addi 3 1 2047#12) ∧ decode 0xFFF0A193#32 = some (.slti 3 1 (-1#12)) ∧
    decode 0x0010B193#32 = some (.sltiu 3 1 1#12) ∧ decode 0xFFF0C193#32 = some (.xori 3 1 (-1#12)) ∧
    decode 0x8000E193#32 = some (.ori 3 1 (-2048#12)) ∧ decode 0x7FF0F193#32 = some (.andi 3 1 2047#12) ∧
    decode 0x01F09193#32 = some (.slli 3 1 31#5) ∧ decode 0x01C0D193#32 = some (.srli 3 1 28#5) ∧
    decode 0x41C0D193#32 = some (.srai 3 1 28#5) := by decide

theorem test_decode_U_J :
    decode 0xFFFFF2B7#32 = some (.lui 5 0xFFFFF#20) ∧ decode 0x00001297#32 = some (.auipc 5 1#20) ∧
    decode 0x7FFFF06F#32 = some (.jal 0 1048574#21) ∧ decode 0x8000006F#32 = some (.jal 0 (-1048576#21)) ∧
    decode 0x0010006F#32 = some (.jal 0 2048#21) ∧ decode 0xFFC100E7#32 = some (.jalr 1 2 (-4#12)) := by
  decide

theorem test_decode_B :
    decode 0x00208463#32 = some (.beq 1 2 8#13) ∧ decode 0xFE009EE3#32 = some (.bne 1 0 (-4#13)) ∧
    decode 0x0020C463#32 = some (.blt 1 2 8#13) ∧ decode 0x0020D463#32 = some (.bge 1 2 8#13) ∧
    decode 0x0020E463#32 = some (.bltu 1 2 8#13) ∧ decode 0x0020F463#32 = some (.bgeu 1 2 8#13) ∧
    decode 0x7E208FE3#32 = some (.beq 1 2 4094#13) ∧ decode 0x80208063#32 = some (.beq 1 2 (-4096#13)) ∧
    decode 0x002080E3#32 = some (.beq 1 2 2048#13) := by decide

theorem test_decode_memory :
    decode 0x00008183#32 = some (.lb 3 1 0#12) ∧ decode 0x00009183#32 = some (.lh 3 1 0#12) ∧
    decode 0xFFC0A183#32 = some (.lw 3 1 (-4#12)) ∧ decode 0x0000C183#32 = some (.lbu 3 1 0#12) ∧
    decode 0x0000D183#32 = some (.lhu 3 1 0#12) ∧ decode 0x002080A3#32 = some (.sb 1 2 1#12) ∧
    decode 0x00209123#32 = some (.sh 1 2 2#12) ∧ decode 0x7E20AFA3#32 = some (.sw 1 2 2047#12) ∧
    decode 0x8020A023#32 = some (.sw 1 2 (-2048#12)) := by decide

theorem test_decode_system :
    decode 0x0FF0000F#32 = some (.fence 0x1FE0#17 0#5) ∧ decode 0x8330000F#32 = some (.fence 0x10660#17 0#5) ∧
    decode 0x00000073#32 = some .ecall ∧ decode 0x00100073#32 = some .ebreak := by decide

/-- Words that the tables call illegal. -/
theorem test_decode_illegal :
    decode 0x022081B3#32 = none ∧ decode 0x4020F1B3#32 = none ∧ decode 0x02009193#32 = none ∧
    decode 0x4200D193#32 = none ∧ decode 0x0000B183#32 = none ∧ decode 0x0020B023#32 = none ∧
    decode 0x00009067#32 = none ∧ decode 0x0020A463#32 = none ∧ decode 0x0000100F#32 = none ∧
    decode 0x30200073#32 = none ∧ decode 0xC0002573#32 = none ∧ decode 0x00200073#32 = none ∧
    decode 0x00100173#32 = none ∧ decode 0x00000000#32 = none ∧ decode 0xFFFFFFFF#32 = none ∧
    decode 0x00000001#32 = none := by decide

/-- Too few bytes spell nothing, and a table word is laid out little-endian (20_memory.md R53). -/
theorem test_decode_bytes :
    decodeBytes [0xB3#8, 0x81#8, 0x20#8] = none ∧
    decodeBytes [0xB3#8, 0x81#8, 0x20#8, 0x00#8, 0xFF#8] = some (.add 3 1 2, [0xFF#8]) ∧
    decodeTableWord 32 0x002081B3 = some (.add 3 1 2) := by decide

/-- The immediates of part 2.1 that no decode test above shows. -/
theorem test_immediates :
    immI 0x80000093#32 = 0xFFFFF800#32 ∧ immS 0xFE20AFA3#32 = 0xFFFFFFFF#32 ∧
    immB 0xFE009EE3#32 = 0xFFFFFFFC#32 ∧ immU 0xFFFFF037#32 = 0xFFFFF000#32 ∧
    immJ 0xFF9FF06F#32 = 0xFFFFFFF8#32 := by decide

/-- The accessors of 30_encoding.md R91 and R92 on 0x12345678. -/
theorem test_accessors :
    csrField 0x12345678#32 = 0x123#12 ∧ getByte .leastFirst 0x12345678#32 0 = some 0x78#8 ∧
    getByte .mostFirst 0x12345678#32 0 = some 0x12#8 ∧ getByte .leastFirst 0x12345678#32 4 = none ∧
    getHalfWord .leastFirst 0x12345678#32 1 = some 0x1234#16 ∧
    getHalfWord .mostFirst 0x12345678#32 2 = none := by decide

/-- The codes of 10_state.md R31 and 60_exceptions.md R341. -/
theorem test_codes :
    Status.running.code = 0 ∧ Status.haltedEbreak.code = 1 ∧
    [FaultKind.invalidArgument, .outOfRange, .failedPrecondition, .internal, .consoleRead, .envCall,
      .uninitRegRead, .uninitMemRead].map FaultKind.code = [2, 3, 4, 5, 16, 17, 18, 19] := by decide

/-- The overflow output of 40_datapath_units.md R145. -/
theorem test_overflow :
    (alu .add 0x7FFFFFFF#32 1#32).overflow = true ∧ (alu .add 0xFFFFFFFF#32 1#32).overflow = false ∧
    (alu .sub 0x80000000#32 1#32).overflow = true ∧ (alu .sub 5#32 7#32).overflow = false := by decide

/-! ## One step of each instruction -/

theorem test_add : sees vec [(1, 0x7FFFFFFF#32), (2, 1#32)] 0x002081B3#32 3 = goes 0x80000000#32 := by
  decide
theorem test_add_same : sees vec [(1, 0x40000000#32)] 0x001080B3#32 1 = goes 0x80000000#32 := by decide
theorem test_add_x0 : sees vec [(1, 5#32), (2, 7#32)] 0x00208033#32 0 = goes 0#32 := by decide
theorem test_sub : sees vec [(1, 5#32), (2, 7#32)] 0x402081B3#32 3 = goes 0xFFFFFFFE#32 := by decide
theorem test_sll : sees vec [(1, 1#32), (2, 0x21#32)] 0x002091B3#32 3 = goes 2#32 := by decide
theorem test_slt : sees vecSlt [(1, 0x80000000#32), (2, 0x7FFFFFFF#32)] 0x0020A1B3#32 3 = goes 1#32 := by
  decide
theorem test_slt_absent : faults vec [(1, 0xFFFFFFFF#32), (2, 1#32)] 0x0020A1B3#32 =
    record .invalidArgument .decode 0x0020A1B3#32 none none := by decide
theorem test_sltu : sees vecSlt [(1, 0xFFFFFFFF#32), (2, 1#32)] 0x0020B1B3#32 3 = goes 0#32 := by decide
theorem test_sltu_x0 : sees vecSlt [(2, 1#32)] 0x002031B3#32 3 = goes 1#32 := by decide
theorem test_xor : sees vec [(1, 0xF0F0F0F0#32), (2, 0xFFFF0000#32)] 0x0020C1B3#32 3 =
    goes 0x0F0FF0F0#32 := by decide
theorem test_srl : sees vec [(1, 0x80000000#32), (2, 0xFFFFFFFF#32)] 0x0020D1B3#32 3 = goes 1#32 := by
  decide
theorem test_sra : sees vec [(1, 0xFFFFFFF8#32), (2, 1#32)] 0x4020D1B3#32 3 = goes 0xFFFFFFFC#32 := by
  decide
theorem test_or : sees vec [(1, 0x0F#32), (2, 0xF0#32)] 0x0020E1B3#32 3 = goes 0xFF#32 := by decide
theorem test_and : sees vec [(1, 0xFF00FF00#32), (2, 0x0FF00FF0#32)] 0x0020F1B3#32 3 =
    goes 0x0F000F00#32 := by decide
theorem test_addi : sees vec [(1, 0#32)] 0xFFF08093#32 1 = goes 0xFFFFFFFF#32 := by decide
theorem test_addi_wrap : sees vec [(1, 0x7FFFFFFF#32)] 0x7FF08193#32 3 = goes 0x800007FE#32 := by decide
theorem test_slti : sees vecSlt [(1, 0xFFFFFFFE#32)] 0xFFF0A193#32 3 = goes 1#32 := by decide
theorem test_sltiu : sees vecSlt [(1, 0xFFFFFFFE#32)] 0xFFF0B193#32 3 = goes 1#32 := by decide
theorem test_xori : sees vec [(1, 0x12345678#32)] 0xFFF0C193#32 3 = goes 0xEDCBA987#32 := by decide
theorem test_ori : sees vec [(1, 1#32)] 0x8000E193#32 3 = goes 0xFFFFF801#32 := by decide
theorem test_andi : sees vec [(1, 0xFFFFFFFF#32)] 0x7FF0F193#32 3 = goes 0x7FF#32 := by decide
theorem test_slli : sees vec [(1, 3#32)] 0x01F09193#32 3 = goes 0x80000000#32 := by decide
theorem test_srli : sees vec [(1, 0xF0000000#32)] 0x01C0D193#32 3 = goes 0xF#32 := by decide
theorem test_srai : sees vec [(1, 0xF0000000#32)] 0x41C0D193#32 3 = goes 0xFFFFFFFF#32 := by decide
theorem test_lui : sees vec [] 0x123452B7#32 5 = goes 0x12345000#32 := by decide
theorem test_auipc : sees vec [] 0xFFFFF297#32 5 = goes 0xFFFFF100#32 := by decide
theorem test_jal : sees vec [] 0xF01FF0EF#32 1 = some (0x104#32, 0#32, .running) := by decide
theorem test_jal_misaligned : sees vec [] 0x002000EF#32 1 = some (0x104#32, 0x102#32, .running) := by
  decide
theorem test_jalr : sees vec [(1, 0x300#32)] 0x000080E7#32 1 = some (0x104#32, 0x300#32, .running) := by
  decide
theorem test_jalr_bit0 : sees vec [(2, 0x200#32)] 0x001100E7#32 1 =
    some (0x104#32, 0x201#32, .running) := by decide
theorem test_beq : fetches [(1, 7#32), (2, 7#32)] 0x00208463#32 = some 0x108#32 ∧
    fetches [(1, 7#32), (2, 8#32)] 0x00208463#32 = some 0x104#32 := by decide
theorem test_bne : fetches [(1, 9#32)] 0xFE009EE3#32 = some 0xFC#32 ∧
    fetches [(1, 0#32), (2, 0#32)] 0x00209463#32 = some 0x104#32 := by decide
theorem test_blt : fetches [(1, 0x80000000#32), (2, 0x7FFFFFFF#32)] 0x0020C463#32 = some 0x108#32 ∧
    fetches [(1, 1#32), (2, 0xFFFFFFFF#32)] 0x0020C463#32 = some 0x104#32 := by decide
theorem test_bge : fetches [(1, 1#32), (2, 1#32)] 0x0020D463#32 = some 0x108#32 ∧
    fetches [(1, 0xFFFFFFFF#32), (2, 1#32)] 0x0020D463#32 = some 0x104#32 := by decide
theorem test_bltu : fetches [(1, 1#32), (2, 0xFFFFFFFF#32)] 0x0020E463#32 = some 0x108#32 ∧
    fetches [(1, 0xFFFFFFFF#32), (2, 1#32)] 0x0020E463#32 = some 0x104#32 := by decide
theorem test_bgeu : fetches [(1, 0xFFFFFFFF#32), (2, 1#32)] 0x0020F463#32 = some 0x108#32 ∧
    fetches [(1, 0#32), (2, 1#32)] 0x0020F463#32 = some 0x104#32 := by decide
theorem test_lb : sees vec [(1, 0x200#32)] 0x00008183#32 3 = goes 0xFFFFFF80#32 := by decide
theorem test_lb_top : faults vec [(1, 0x800#32)] 0x00008183#32 =
    record .consoleRead .memory 0x00008183#32 (some 0x800#32) none := by decide
theorem test_lh : sees vec [(1, 0x200#32)] 0x00009183#32 3 = goes 0xFFFFFF80#32 := by decide
theorem test_lh_odd : faults vec [(1, 0x201#32)] 0x00009183#32 =
    record .failedPrecondition .memory 0x00009183#32 (some 0x201#32) none := by decide
theorem test_lw : sees vec [(1, 0x204#32)] 0xFFC0A183#32 3 = goes 0x1234FF80#32 := by decide
theorem test_lw_bounds_first : faults vec [(1, 0xFFE#32)] 0x0000A183#32 =
    record .outOfRange .memory 0x0000A183#32 (some 0xFFE#32) none := by decide
theorem test_lw_unwritten : faults vec [(1, 0x204#32)] 0x0000A183#32 =
    record .uninitMemRead .memory 0x0000A183#32 (some 0x204#32) none ∧
    sees vecDraw [(1, 0x204#32)] 0x0000A183#32 3 = goes 0#32 := by decide
theorem test_lw_unreadable : faults vec [] 0x0000A183#32 =
    record .uninitRegRead .decode 0x0000A183#32 none (some 1) := by decide
theorem test_lbu : sees vec [(1, 0x200#32)] 0x0000C183#32 3 = goes 0x80#32 := by decide
theorem test_lhu : sees vec [(1, 0x200#32)] 0x0000D183#32 3 = goes 0xFF80#32 := by decide
theorem test_sb : leaves [(1, 0x200#32), (2, 0xAABBCCDD#32)] 0x002080A3#32 =
    some ([some 0x80#8, some 0xDD#8, some 0x34#8, some 0x12#8, none, none, none, none], []) := by decide
theorem test_sb_console : leaves [(1, 0x800#32), (2, 0x41#32)] 0x00208023#32 =
    some ([some 0x80#8, some 0xFF#8, some 0x34#8, some 0x12#8, none, none, none, none], [0x41#8]) := by
  decide
theorem test_sh : leaves [(1, 0x200#32), (2, 0xAABBCCDD#32)] 0x00209123#32 =
    some ([some 0x80#8, some 0xFF#8, some 0xDD#8, some 0xCC#8, none, none, none, none], []) := by decide
theorem test_sh_console_odd : faults { vec with conSize := 2 } [(1, 0x801#32), (2, 0x41#32)] 0x00209023#32 =
    record .failedPrecondition .memory 0x00209023#32 (some 0x801#32) none := by decide
theorem test_sw : leaves [(1, 0x200#32), (2, 0xAABBCCDD#32)] 0x0020A223#32 =
    some ([some 0x80#8, some 0xFF#8, some 0x34#8, some 0x12#8, some 0xDD#8, some 0xCC#8, some 0xBB#8,
      some 0xAA#8], []) := by decide
theorem test_sw_out : faults vec [(1, 0x1000#32), (2, 1#32)] 0x0020A023#32 =
    record .outOfRange .memory 0x0020A023#32 (some 0x1000#32) none := by decide
theorem test_fence : sees vec [] 0x8330000F#32 0 = goes 0#32 := by decide
theorem test_ecall : faults vec [] 0x00000073#32 = record .envCall .decode 0x00000073#32 none none ∧
    sees vecNop [] 0x00000073#32 0 = goes 0#32 := by decide
theorem test_ebreak : (ran (ready vec [] 0x00100073#32)).map (fun t => (t.status, t.power, t.pc)) =
    some (.haltedEbreak, false, 0x100#32) := by decide

/-- Program P6 of part 3: a jump to 0x106 completes and the next cycle faults in Fetch. -/
theorem test_fetch_misaligned :
    ((ran (ready vec [] 0x006000EF#32)).bind ran).map (fun t => (t.fault, t.regValue 1, t.power)) =
      some (some ⟨.failedPrecondition, .fetch, 0x106#32, none, some 0x106#32, none⟩, 0x104#32, true) := by
  decide

/-- The first cycle after the model's reset fetches at `LOAD_BASE` (10_state.md R38). -/
theorem test_reset_first_fetch :
    State.reset.nextPc = 0x100#32 ∧
    (ran (State.reset.withFetchWord 32 0x00A00093)).map (fun t => (t.pc, t.regValue 1)) =
      some (0x100#32, 10#32) := by decide

/-! ## Witnesses: concrete states and operands that meet every hypothesis of each obligation

Registers 1 and 2 of `two` are written and readable, register 3 is not. -/

def two : State := at100 vec [(1, 5#32), (2, 7#32)]

/-- The power is on; both sources readable; the first not; the second alone not. -/
abbrev ReadCases (s : State) : Prop :=
  s.power = true ∧ Readable s 0 ∧ Readable s 1 ∧ Readable s 2 ∧ ¬ Readable s 3

theorem two_readCases : ReadCases two := by decide
/-- The last register is readable when it has been drawn, unreadable otherwise. -/
theorem readable_boundary : Readable (at100 vecDraw []) 31 ∧ ¬ Readable two 31 ∧
    Readable (at100 vec [(31, 1#32)]) 31 := by decide

/-- The word is what the next fetch of a running unit reads. -/
abbrev Fetched (c : Config) (w : Word) : Prop :=
  (ready c [] w).isRunning = true ∧ readFault (ready c [] w) (ready c [] w).nextPc 4 = none ∧
    (ready c [] w).busRead (ready c [] w).nextPc .word false = .ok w

theorem witness_DecodeOfEncodeGivesInstruction :
    (Instr.beq 31 0 (-4096#13)).wf = true ∧ (Instr.jal 31 1048574#21).wf = true ∧
    (Instr.add 31 31 31).wf = true := by decide

theorem witness_EncodeOfDecodeGivesWord : decode 0x80208063#32 = some (.beq 1 2 (-4096#13)) := by decide

theorem witness_DecodableWordsAreTheTableRows :
    (0x0020A1B3#32 &&& 0xFE00707F#32 = 0x00002033#32) ∧ (decodeBundle .present 0x0020A1B3#32).isSome = true ∧
    decode 0x0020A1B3#32 = some (.slt 3 1 2) ∧ decodeBundle .absent 0x0020A1B3#32 = none ∧
    (⟨"SLT", 0x00002033, 0xFE00707F⟩ : TableRow) ∈ opcodeTable := by decide
theorem witness_DecodableWordsAreTheTableRows_fetch : Fetched vec 0x0020A1B3#32 := ⟨by decide, by decide, rfl⟩

theorem witness_ImmediateBits : ∃ j : Nat, j < 32 ∧ j = 31 := ⟨31, by decide, rfl⟩

theorem witness_AluNineOperations : ∃ j : Nat, j < 32 ∧ j = 31 := ⟨31, by decide, rfl⟩

theorem witness_ShiftAmountIsMasked :
    (33#32).extractLsb' 0 5 = (1#32).extractLsb' 0 5 ∧ (0xFFFFFFE0#32).extractLsb' 0 5 = 0#5 := by decide

theorem witness_AluSetLessThan : (decodeBundle .absent 0x002081B3#32).isSome = true := by decide

theorem witness_AluOverflowIsSignedOverflow : AluOp.sltu ≠ .add ∧ AluOp.sltu ≠ .sub := by decide

theorem witness_RegisterFileReadsAndWrites :
    (31 : RegIdx) ≠ 0 ∧ two.regWritten[(1 : RegIdx)] = true ∧ two.regWritten[(31 : RegIdx)] = false := by
  decide

theorem witness_AddAndSub : ReadCases two ∧ opcodeField 0x022081B3#32 = 0b0110011#7 ∧
    funct3Field 0x022081B3#32 = 0b000#3 ∧ funct7Field 0x022081B3#32 = 0b0000001#7 := by decide
theorem witness_XorOrAnd : ReadCases two ∧ opcodeField 0x4020F1B3#32 = 0b0110011#7 ∧
    funct3Field 0x4020F1B3#32 = 0b111#3 ∧ funct7Field 0x4020F1B3#32 = 0b0100000#7 := by decide
theorem witness_ShiftsByRegister : ReadCases two ∧ opcodeField 0x402091B3#32 = 0b0110011#7 ∧
    funct3Field 0x402091B3#32 = 0b001#3 ∧ funct7Field 0x402091B3#32 = 0b0100000#7 ∧
    funct3Field 0x0220D1B3#32 = 0b101#3 ∧ funct7Field 0x0220D1B3#32 = 0b0000001#7 := by decide
/-- What the clauses on illegal words ask of a state. -/
theorem witness_Illegal : Fetched vec 0x022081B3#32 ∧ Fetched vec 0x4020F1B3#32 ∧
    Fetched vec 0x00009067#32 ∧ Fetched vec 0x30200073#32 :=
  ⟨⟨by decide, by decide, rfl⟩, ⟨by decide, by decide, rfl⟩, ⟨by decide, by decide, rfl⟩,
    ⟨by decide, by decide, rfl⟩⟩

def twoSlt : State := at100 vecSlt [(1, 5#32), (2, 7#32)]

theorem witness_SetLessThanInstructions :
    (twoSlt.cfg.slt = .present ∧ ReadCases twoSlt) ∧ (needsSlt (.slti 3 1 0#12) = true ∧ two.cfg.slt = .absent) ∧
    (sourcesOf (.slt 3 1 4)).find? (fun q => !decide (Readable twoSlt q)) = some 4 ∧
    (sourcesOf (.sltiu 3 4 0#12)).find? (fun q => !decide (Readable twoSlt q)) = some 4 ∧
    opcodeField 0x0220A1B3#32 = 0b0110011#7 ∧ funct3Field 0x0220A1B3#32 = 0b010#3 ∧
    funct7Field 0x0220A1B3#32 = 0b0000001#7 := by decide

theorem witness_ImmediateArithmeticAndLogic : ReadCases two := two_readCases
theorem witness_ShiftsByImmediate : ReadCases two ∧ opcodeField 0x02009193#32 = 0b0010011#7 ∧
    funct3Field 0x02009193#32 = 0b001#3 ∧ funct7Field 0x02009193#32 = 0b0000001#7 ∧
    funct3Field 0x4200D193#32 = 0b101#3 ∧ funct7Field 0x4200D193#32 = 0b0100001#7 := by decide
theorem witness_LuiAndAuipc : opcodeField 0xFFFFF037#32 = 0b0110111#7 ∧
    opcodeField 0x00000297#32 = 0b0010111#7 ∧ two.power = true := by decide

/-- JAL to 0x102 from 0x100: the target cannot be fetched; JALR with a readable and an unreadable base. -/
theorem witness_JalAndJalr : opcodeField 0x8000006F#32 = 0b1101111#7 ∧
    (opcodeField 0x00008067#32 = 0b1100111#7 ∧ funct3Field 0x00008067#32 = 0b000#3) ∧
    (opcodeField 0x00009067#32 = 0b1100111#7 ∧ funct3Field 0x00009067#32 ≠ 0b000#3) ∧
    ReadCases two ∧ two.isRunning = true ∧
    readFault (withDest (goTo two 0x102#32) 31 0x104#32) 0x102#32 4 = some .failedPrecondition ∧
    readFault (withDest (goTo two 0x800#32) 0 0x104#32) 0x800#32 4 = some .consoleRead ∧
    readFault (withDest (goTo two 0x1000#32) 0 0x104#32) 0x1000#32 4 = some .outOfRange := by decide

/-- Both outcomes of each condition, and a taken branch to a target that cannot be fetched. -/
theorem witness_BranchOnEquality : ReadCases two ∧ two.isRunning = true ∧
    two.regValue 1 = two.regValue 1 ∧ two.regValue 1 ≠ two.regValue 2 ∧
    opcodeField 0x00208463#32 = 0b1100011#7 ∧ funct3Field 0x00208463#32 = 0b000#3 ∧
    funct3Field 0xFE009EE3#32 = 0b001#3 ∧
    readFault (goTo two 0x102#32) 0x102#32 4 = some .failedPrecondition := by decide
theorem witness_BranchOnOrder : ReadCases two ∧ two.isRunning = true ∧
    (two.regValue 1).toInt < (two.regValue 2).toInt ∧ (two.regValue 1).toInt ≤ (two.regValue 1).toInt ∧
    (two.regValue 1).toNat < (two.regValue 2).toNat ∧ ¬ (two.regValue 2).toNat < (two.regValue 2).toNat ∧
    funct3Field 0x0020C463#32 = 0b100#3 ∧ funct3Field 0x0020D463#32 = 0b101#3 ∧
    funct3Field 0x0020E463#32 = 0b110#3 ∧ funct3Field 0x0020F463#32 = 0b111#3 ∧
    opcodeField 0x0020A463#32 = 0b1100011#7 ∧ funct3Field 0x0020A463#32 = 0b010#3 ∧
    readFault (goTo two 0xFFFFFFFC#32) 0xFFFFFFFC#32 4 = some .outOfRange := by decide

/-- A base at 0x200, at the last byte, and at addresses that meet each fault of a read. -/
theorem witness_Loads : ReadCases two ∧
    readFault two 0x200#32 1 = none ∧ readFault two 0x202#32 2 = none ∧ readFault two 0x200#32 4 = none ∧
    readFault (at100 vecDraw []) 0xFFF#32 1 = none ∧ readFault (at100 vecDraw []) 0xFFC#32 4 = none ∧
    readFault two 0x800#32 1 = some .consoleRead ∧ readFault two 0x1000#32 1 = some .outOfRange ∧
    readFault two 0xFFE#32 4 = some .outOfRange ∧ readFault two 0x201#32 2 = some .failedPrecondition ∧
    readFault two 0x204#32 4 = some .uninitMemRead ∧
    opcodeField 0x0000B183#32 = 0b0000011#7 ∧ funct3Field 0x0000B183#32 = 0b011#3 := by decide

/-- Stores into memory up to its last byte, into the console, and at addresses that meet each fault. -/
theorem witness_Stores : ReadCases two ∧
    (writeFault vec 0x200#32 1 = none ∧ ¬ AtConsole vec 0x200#32) ∧
    (writeFault vec 0xFFF#32 1 = none ∧ ¬ AtConsole vec 0xFFF#32) ∧
    (writeFault vec 0xFFC#32 4 = none ∧ ¬ AtConsole vec 0xFFC#32) ∧
    (writeFault vec 0x800#32 4 = none ∧ AtConsole vec 0x800#32) ∧
    writeFault { vec with conSize := 2 } 0x801#32 2 = some .failedPrecondition ∧
    writeFault vec 0x202#32 4 = some .failedPrecondition ∧ writeFault vec 0x1000#32 1 = some .outOfRange ∧
    opcodeField 0x00208023#32 = 0b0100011#7 ∧ funct3Field 0x00208023#32 = 0b000#3 ∧
    3 ≤ (funct3Field 0x0020B023#32).toNat := by decide

theorem witness_LoadToZeroStillReads : ∃ t, exec (.lw 3 1 0#12) two = .next t := ⟨_, rfl⟩

theorem witness_FenceIsANoOp : (opcodeField 0x8330000F#32 = 0b0001111#7 ∧ funct3Field 0x8330000F#32 = 0b000#3) ∧
    (opcodeField 0x0000100F#32 = 0b0001111#7 ∧ funct3Field 0x0000100F#32 ≠ 0b000#3) ∧ two.power = true := by
  decide

theorem witness_EcallBothSettings : two.cfg.ecall = .fault ∧ (at100 vecNop []).cfg.ecall = .nop ∧
    (at100 vecNop []).power = true := by decide

theorem witness_OtherSystemWordsAreIllegal : opcodeField 0x30200073#32 = 0b1110011#7 ∧
    (0x30200073#32 : Word) ≠ 0x00000073#32 ∧ (0x30200073#32 : Word) ≠ 0x00100073#32 := by decide

theorem witness_StepRunsDecodedInstruction :
    let s := ready vec [] 0x00A00093#32
    s.isRunning = true ∧ readFault s s.nextPc 4 = none ∧
    decode (wordOfBytes (s.byteAt s.nextPc.toNat) (s.byteAt (s.nextPc.toNat + 1))
      (s.byteAt (s.nextPc.toNat + 2)) (s.byteAt (s.nextPc.toNat + 3))) = some (.addi 1 0 10#12) := by decide

theorem witness_FetchMovesPcThenReads : (base vec []).pcSelLatch = .pc4 ∧
    (goTo two 0x102#32).pcSelLatch = .alu ∧ (goTo two 0x102#32).isRunning = true ∧
    readFault (goTo two 0x102#32) (goTo two 0x102#32).nextPc 4 = some .failedPrecondition ∧
    readFault (ready vec [] 0x00A00093#32) (ready vec [] 0x00A00093#32).nextPc 4 = none := by decide

theorem witness_RejectedWordRaisesInvalidArgument :
    (Fetched vec 0#32 ∧ decodeBundle vec.slt 0#32 = none) ∧
    (Fetched vec 0x00A00093#32 ∧ decodeBundle vec.slt 0x00A00093#32 ≠ none ∧
      ∃ t, step (ready vec [] 0x00A00093#32) = .next t) :=
  ⟨⟨⟨by decide, by decide, rfl⟩, by decide⟩, ⟨by decide, by decide, rfl⟩, by decide, _, rfl⟩

theorem witness_NextFetchAddress : ∃ t, two.isRunning = true ∧ exec (.bne 1 2 (-4096#13)) two = .next t ∧
    t.isRunning = true := ⟨_, by decide, rfl, by decide⟩

/-- A jump with a link to 0x102, a JALR to an odd address, and a target in the console. -/
theorem witness_MisalignedTargetFaultsAtNextFetch :
    (∃ t, two.isRunning = true ∧ exec (.jal 31 2#21) two = .next t ∧ t.isRunning = true ∧
      (nextFetch two (.jal 31 2#21)).toNat % 4 ≠ 0) ∧
    (∃ t, exec (.jalr 1 1 0#12) two = .next t ∧ t.isRunning = true ∧
      (nextFetch two (.jalr 1 1 0#12)).toNat % 4 ≠ 0) ∧
    (∃ s t, s.isRunning = true ∧ exec (.jalr 0 0 0x7FE#12) s = .next t ∧ t.isRunning = true ∧
      (nextFetch s (.jalr 0 0 0x7FE#12)).toNat % 4 ≠ 0 ∧ AtConsole s.cfg (nextFetch s (.jalr 0 0 0x7FE#12))) :=
  ⟨⟨_, by decide, rfl, by decide, by decide⟩, ⟨_, rfl, by decide, by decide⟩,
    ⟨at100 { vec with conBase := 0x7FE#32 } [], _, by decide, rfl, by decide, by decide, by decide⟩⟩

theorem witness_DestinationMayBeASource : (1 : RegIdx) ≠ 0 ∧ two.power = true ∧ Readable two 1 := by decide

theorem witness_HaltedUnitRunsNoCycle : two.isRunning = true ∧
    State.isRunning { two with power := false, status := .haltedEbreak } = false ∧
    (faultedAs two .envCall .decode (some 0x73#32) none none).isRunning = false := by decide

theorem witness_DecoderBlockRunsTheInstruction : ∃ b, decodeBundle two.cfg.slt 0x002081B3#32 = some b ∧
    decode 0x002081B3#32 = some (.add 3 1 2) := ⟨_, rfl, rfl⟩

theorem witness_StepIsTheDatapathCycle : two.isRunning = true := by decide

theorem witness_BusReadChecksAndValue :
    readFault two 0x800#32 4 = some .consoleRead ∧ readFault two 0xFFE#32 4 = some .outOfRange ∧
    readFault two 0x201#32 2 = some .failedPrecondition ∧ readFault two 0x203#32 1 = none ∧
    readFault two 0x204#32 1 = some .uninitMemRead := by decide

theorem witness_BusWriteChecksAndEffect :
    writeFault vec 0xFFE#32 4 = some .outOfRange ∧ writeFault vec 0x202#32 4 = some .failedPrecondition ∧
    (writeFault vec 0x800#32 4 = none ∧ AtConsole vec 0x800#32) ∧
    (writeFault vec 0xFFC#32 4 = none ∧ ¬ AtConsole vec 0xFFC#32) := by decide

theorem witness_MixedWidthAccessesSeeBytes : ∃ t,
    (∀ i < 4, ¬ AtConsole two.cfg (0xFFC#32 + BitVec.ofNat 32 i)) ∧
    (0xFFC#32 : Word).toNat + 4 ≤ two.cfg.memSize ∧ (0xFFC#32 : Word).toNat % 4 = 0 ∧
    two.busWrite 0xFFC#32 .word 0xAABBCCDD#32 = .ok t := ⟨_, by decide, by decide, by decide, rfl⟩

/-- `sw x2, 0(x1)` at 0x100 stores to 0x104, which is fetched next. -/
theorem witness_NextFetchSeesTheStore :
    let s := at100 vec [(1, 0x104#32), (2, 0x00100073#32)]
    ∃ t, s.isRunning = true ∧ exec (.sw 1 2 0#12) s = .next t ∧ t.isRunning = true ∧
      ¬ AtConsole s.cfg t.nextPc ∧ t.nextPc = s.regValue 1 + (0#12 : BitVec 12).signExtend 32 :=
  ⟨_, by decide, rfl, by decide, by decide, by decide⟩

theorem witness_PlacedWordIsTheNextFetch :
    ¬ AtConsole State.reset.cfg State.reset.nextPc ∧
    State.reset.nextPc.toNat + 4 ≤ State.reset.cfg.memSize ∧ State.reset.nextPc.toNat % 4 = 0 ∧
    (0xFFFFFFFF : Nat) < 2 ^ 32 := by decide

theorem witness_ResetState : ∃ s, boot vec [0x73#8, 0#8, 0x10#8, 0#8] = some s ∧
    (31 : RegIdx) ≠ 0 ∧ vec.uninitReg = .fault ∧ vecDraw.uninitReg = .draw ∧ vec.uninitMem = .fault ∧
    ¬ AtConsole vec 0x104#32 ∧ (0x104#32 : Word).toNat + Width.word.bytes ≤ vec.memSize ∧
    (0x104#32 : Word).toNat % Width.word.bytes = 0 ∧
    (∃ i < Width.word.bytes, ¬ (vec.loadBase.toNat ≤ (0x104#32 : Word).toNat + i ∧
      (0x104#32 : Word).toNat + i < vec.loadBase.toNat + 4)) :=
  ⟨_, rfl, by decide, by decide, by decide, by decide, by decide, by decide, by decide, 0, by decide, by decide⟩

theorem witness_ImageLoader : (∃ t, two.loadImage [0x73#8, 0#8, 0x10#8, 0#8] = some t) ∧
    State.loadImage { two with cfg := { vec with memSize := 0x100 } } [0#8] = none := ⟨⟨_, rfl⟩, rfl⟩

theorem witness_InvariantHoldsAtReset : ∃ s, boot vec [] = some s := ⟨_, rfl⟩

/-- The reset state meets the invariant and takes a step. -/
theorem witness_StepKeepsInvariant : State.reset.Inv ∧ ∃ t, step State.reset = .next t :=
  ⟨⟨by decide, by decide, by decide, by decide, by decide⟩, _, rfl⟩

theorem witness_RegistersWrittenAndRead : ∃ t, exec (.add 3 1 2) two = .next t ∧
    destOf (.add 3 1 2) ≠ some 31 ∧ (31 : RegIdx) ∉ sourcesOf (.add 3 1 2) ∧
    (3 : RegIdx) ∉ sourcesOf (.add 3 1 2) := ⟨_, rfl, by decide, by decide, by decide⟩

theorem witness_ZeroRegisterIsNeverWritten : (∃ t, exec (.add 0 1 2) two = .next t) ∧
    ∃ t, step (ready vec [(1, 5#32), (2, 7#32)] 0x00208033#32) = .next t := ⟨⟨_, rfl⟩, _, rfl⟩

theorem witness_OnlyStoresTouchMemoryOrConsole : (∃ t, exec (.add 3 1 2) two = .next t) ∧
    isStore (.add 3 1 2) = false ∧ (∃ t, exec (.sb 1 2 0#12) (at100 vec [(1, 0x800#32), (2, 0x41#32)]) = .next t) ∧
    ∃ t, step (ready vec [(1, 0x800#32), (2, 0x41#32)] 0x00208023#32) = .next t :=
  ⟨⟨_, rfl⟩, rfl, ⟨_, rfl⟩, _, rfl⟩

theorem witness_PcParametersAndPower : (∃ t, exec .ebreak two = .next t ∧ t.power = false) ∧
    ∃ t, step (ready vec [] 0x00A00093#32) = .next t ∧ t.power = true :=
  ⟨⟨_, rfl, rfl⟩, _, rfl, rfl⟩

/-- A fault in each stage that raises one. -/
theorem witness_FaultStateAndRecord :
    (∃ t, (goTo two 0x102#32).isRunning = true ∧ step (goTo two 0x102#32) = .next t ∧
      t.status = .faulted .failedPrecondition) ∧
    (∃ t, step (ready vec [] 0x0000A183#32) = .next t ∧ t.status = .faulted .uninitRegRead) ∧
    ∃ t, step (ready vec [(1, 0x800#32)] 0x0000A183#32) = .next t ∧ t.status = .faulted .consoleRead :=
  ⟨⟨_, by decide, rfl, by decide⟩, ⟨_, rfl, by decide⟩, ⟨_, rfl, by decide⟩⟩

theorem witness_LatchesAndRecordAreInvisible : ∃ t, exec (.beq 1 1 8#13) two = .next t := ⟨_, rfl⟩

theorem witness_DrawsUnusedUnderFault : (∃ t, step (ready vec [] 0x0000A183#32) = .next t) ∧
    (ready vec [] 0x0000A183#32).cfg.uninitReg = .fault ∧
    (ready vec [] 0x0000A183#32).cfg.uninitMem = .fault ∧ vec.uninitReg = .fault ∧
    vec.uninitMem = .fault ∧ (ready vec [] 0x0000A183#32).regWritten[(1 : RegIdx)] = false :=
  ⟨⟨_, rfl⟩, by decide, by decide, by decide, by decide, by decide⟩

/-- Under fault a register never written has no value in the snapshot; under draw it has its draw. -/
theorem test_snapshot_unwritten :
    (State.resetWith vec).snapshot[(1 : RegIdx)] = .error .uninitRegRead ∧
    (State.resetWith { vecDraw with regInit := Vector.replicate 32 7#32 }).snapshot[(1 : RegIdx)] =
      .ok 7#32 := by decide

theorem witness_LoadImmediateExpansion : two.power = true := by decide

end Sys2Proof.Tests
end

section
/-! What every step keeps and how it starts, and the draws `REG_INIT` and `MEM_INIT` (00_scope.md R5; D14,
D15): two machines that differ only in draws that their parameters leave unused run alike, stage by stage. -/

namespace Sys2Proof.Machine

/-! ## No step changes the parameters -/

theorem sysPhase_cfg {w : Word} {b : ControlBundle} {s t : State} (h : sysPhase w b s = .ok t) :
    t.cfg = s.cfg := by
  obtain ⟨-, -, he⟩ | ⟨-, hk⟩ := sysPhase_cases w b s
  · cases he.symm.trans h
  · cases hk.symm.trans h
    rfl

theorem memoryStage_cfg {w v2 v : Word} {b : ControlBundle} {s t : State}
    (h : memoryStage w b v2 s = .ok (t, v)) : t.cfg = s.cfg := by
  rw [memoryStage_frame h]

@[simp] theorem runBundle_cfg (w : Word) (b : ControlBundle) (s : State) :
    (runBundle w b s).cfg = s.cfg := by
  obtain ⟨-, -, h⟩ | ⟨_, -, -, -, h⟩ | ⟨_, _, _, _, -, -, -, -, h⟩ | ⟨_, _, _, _, -, -, hm, h⟩ :=
    runBundle_cases w b s
  case inr.inr.inr => simp [h, memoryStage_cfg hm]
  all_goals simp [h]

theorem exec_cfg {i : Instr} {s t : State} (h : exec i s = .next t) : t.cfg = s.cfg := by
  rw [exec_eq] at h
  cases h
  split <;> simp

theorem step_cfg {s t : State} (h : step s = .next t) : t.cfg = s.cfg := by
  obtain ⟨-, ⟨k, -, rfl⟩ | ⟨w, -, -, rfl⟩ | ⟨w, i, -, -, hx⟩⟩ := step_cases h
  · rfl
  · rfl
  · exact (exec_cfg hx).trans rfl

/-! ## What a running unit does, by what it fetches: the converses of `step_cases` -/

theorem step_of_fetchFault {s : State} {k : FaultKind} (hr : s.isRunning = true)
    (hb : s.busRead s.nextPc .word false = .error k) :
    step s = .next (State.raise { s with pc := s.nextPc } k .fetch none (some s.nextPc) none) := by
  simp only [step, hr, if_true, fetchStage_error.2 ⟨k, hb, rfl⟩]

theorem step_of_illegal {s : State} {w : Word} (hr : s.isRunning = true)
    (hb : s.busRead s.nextPc .word false = .ok w) (hd : decode w = none) :
    step s = .next (State.decodeFault { s with pc := s.nextPc } .invalidArgument w none) := by
  simp only [step, hr, if_true, fetchStage_ok.2 ⟨rfl, hb⟩, hd]

theorem step_of_exec {s : State} {w : Word} {i : Instr} (hr : s.isRunning = true)
    (hb : s.busRead s.nextPc .word false = .ok w) (hd : decode w = some i) :
    step s = exec i { s with pc := s.nextPc } := by
  simp only [step, hr, if_true, fetchStage_ok.2 ⟨rfl, hb⟩, hd]

/-- The same machine built with other draws. -/
def State.withDraws (d : Vector Word 32) (m : List Host.Cell) (s : State) : State :=
  { s with cfg := { s.cfg with regInit := d, memInit := m } }

/-- The draws `d` and `m` differ from those of `c` only where the parameter is `fault`. -/
structure OtherDrawsUnused (c : Config) (d : Vector Word 32) (m : List Host.Cell) : Prop where
  reg : c.uninitReg = .fault ∨ d = c.regInit
  mem : c.uninitMem = .fault ∨ m = c.memInit

section Draws
variable {s : State} {d : Vector Word 32} {m : List Host.Cell}

/-! ## Reads do not see an unused draw -/

/-- A written byte reads as what was written, whatever the draw. -/
theorem byteAt_withDraws {a : Nat} (h : s.written a = true) :
    (s.withDraws d m).byteAt a = s.byteAt a := by
  obtain ⟨v, hv⟩ := Option.isSome_iff_exists.1 h
  simp [State.byteAt, State.withDraws, hv]

theorem assemble_withDraws {a : Nat} {n : Width} (h : s.allWritten a n = true) (g : Bool) :
    (s.withDraws d m).assemble a n g = s.assemble a n g := by
  have hb : ∀ i < n.bytes, (s.withDraws d m).byteAt (a + i) = s.byteAt (a + i) := fun i hi =>
    byteAt_withDraws (allWritten_eq_true.1 h i hi)
  have h0 : (s.withDraws d m).byteAt a = s.byteAt a := hb 0 (by cases n <;> decide)
  cases n with
  | byte => simp only [State.assemble, h0]
  | half => simp only [State.assemble, h0, hb 1 (by decide)]
  | word =>
    simp only [State.assemble, h0, hb 1 (by decide), hb 2 (by decide), hb 3 (by decide)]

/-- The draw `MEM_INIT` is not seen: under `P_UNINIT_MEM` = fault a read that succeeds finds every byte
written, and one that does not faults before it assembles a word (20_memory.md R62). -/
theorem busRead_withDraws (h : OtherDrawsUnused s.cfg d m) (a : Word) (n : Width) (g : Bool) :
    (s.withDraws d m).busRead a n g = s.busRead a n g := by
  obtain hf | rfl := h.mem
  · cases hw : s.allWritten a.toNat n with
    | true =>
      unfold State.busRead
      rw [assemble_withDraws hw]
      rfl
    | false =>
      have hw' : (s.withDraws d m).allWritten a.toNat n = false := hw
      have hf' : (s.withDraws d m).cfg.uninitMem = .fault := hf
      simp only [State.busRead, hf, hf', hw, hw', and_self, if_true]
      rfl
  · rfl

theorem regRead_withDraws (h : OtherDrawsUnused s.cfg d m) (i : Option RegIdx) :
    (s.withDraws d m).regRead i = s.regRead i := by
  obtain hf | rfl := h.reg
  · exact regRead_regInit hf d i
  · rfl

/-! ## Each stage commutes with the change of draws -/

theorem busWrite_withDraws (a : Word) (n : Width) (v : Word) :
    (s.withDraws d m).busWrite a n v = (s.busWrite a n v).map (State.withDraws d m) := by
  have hc : inConsole (s.withDraws d m).cfg a = inConsole s.cfg a := rfl
  have hb : beyondMemory (s.withDraws d m).cfg a n = beyondMemory s.cfg a n := rfl
  simp only [State.busWrite, hc, hb]
  split_ifs <;> rfl

theorem sysPhase_withDraws (w : Word) (b : ControlBundle) (s : State) :
    sysPhase w b (s.withDraws d m) =
      ((sysPhase w b s).map (State.withDraws d m)).mapError (State.withDraws d m) := by
  have he : (s.withDraws d m).cfg.ecall = s.cfg.ecall := rfl
  simp only [sysPhase, he]
  cases b.sys with
  | none | ebreak => rfl
  | ecall => cases s.cfg.ecall <;> rfl

theorem readPhase_withDraws (h : OtherDrawsUnused s.cfg d m) (w : Word) (b : ControlBundle) :
    readPhase w b (s.withDraws d m) = (readPhase w b s).mapError (State.withDraws d m) := by
  simp only [readPhase, regRead_withDraws h]
  cases s.regRead b.rs1 with
  | error k => rfl
  | ok v1 => cases s.regRead b.rs2 <;> rfl

theorem executeStage_withDraws (b : ControlBundle) (v1 v2 : Word) (s : State) :
    executeStage b v1 v2 (s.withDraws d m) = (executeStage b v1 v2 s).withDraws d m := rfl

theorem memoryStage_withDraws (h : OtherDrawsUnused s.cfg d m) (w : Word) (b : ControlBundle)
    (v2 : Word) : memoryStage w b v2 (s.withDraws d m) =
      ((memoryStage w b v2 s).map (Prod.map (State.withDraws d m) id)).mapError
        (State.withDraws d m) := by
  have hl : (s.withDraws d m).aluLatch = s.aluLatch := rfl
  simp only [memoryStage, hl, busRead_withDraws h, busWrite_withDraws]
  split
  · next n _ _ => cases s.busRead s.aluLatch n b.memSigned <;> rfl
  · next n _ _ => cases s.busWrite s.aluLatch n v2 <;> rfl
  · rfl

theorem writebackStage_withDraws (b : ControlBundle) (v : Word) (s : State) :
    writebackStage b v (s.withDraws d m) = (writebackStage b v s).withDraws d m := by
  unfold writebackStage State.regWrite
  cases b.rd with
  | none => rfl
  | some r => dsimp only; split_ifs <;> rfl

theorem endOfCycle_withDraws (s : State) :
    endOfCycle (s.withDraws d m) = (endOfCycle s).withDraws d m := by
  have hp : (s.withDraws d m).power = s.power := rfl
  simp only [endOfCycle, hp]
  split <;> rfl

theorem runBundle_withDraws (h : OtherDrawsUnused s.cfg d m) (w : Word) (b : ControlBundle) :
    runBundle w b (s.withDraws d m) = (runBundle w b s).withDraws d m := by
  unfold runBundle
  rw [sysPhase_withDraws]
  cases hs : sysPhase w b s with
  | error t => rfl
  | ok s1 =>
    rw [← sysPhase_cfg hs] at h
    simp only [Except.map, Except.mapError, readPhase_withDraws h]
    cases readPhase w b s1 with
    | error t => rfl
    | ok v =>
      simp only [executeStage_withDraws, memoryStage_withDraws (s := executeStage b v.1 v.2 s1) h]
      cases memoryStage w b v.2 (executeStage b v.1 v.2 s1) with
      | error t => rfl
      | ok q =>
        show endOfCycle (writebackStage b q.2 (q.1.withDraws d m)) = _
        rw [writebackStage_withDraws, endOfCycle_withDraws]

theorem exec_withDraws (h : OtherDrawsUnused s.cfg d m) {i : Instr} {t : State}
    (hx : exec i s = .next t) : exec i (s.withDraws d m) = .next (t.withDraws d m) := by
  have hp : (s.withDraws d m).cfg.slt = s.cfg.slt := rfl
  rw [exec_eq] at hx ⊢
  cases hx
  rw [hp, runBundle_withDraws h]
  split <;> rfl

/-- A step commutes with a change of draws that the parameters leave unused. -/
theorem step_withDraws (h : OtherDrawsUnused s.cfg d m) {t : State} (ht : step s = .next t) :
    step (s.withDraws d m) = .next (t.withDraws d m) := by
  have hf : (s.withDraws d m).busRead (s.withDraws d m).nextPc .word false =
    s.busRead s.nextPc .word false := busRead_withDraws h _ _ _
  obtain ⟨hr, ⟨k, hb, rfl⟩ | ⟨w, hb, hd, rfl⟩ | ⟨w, i, hb, hd, hx⟩⟩ := step_cases ht
  · exact step_of_fetchFault hr (hf.trans hb)
  · exact step_of_illegal hr (hf.trans hb) hd
  · exact (step_of_exec (s := s.withDraws d m) hr (hf.trans hb) hd).trans
      (exec_withDraws (s := { s with pc := s.nextPc }) h hx)

/-! ## The host's side -/

/-- Under fault the snapshot shows no value for a register never written (log entry 19). -/
theorem snapshot_unwritten (h : s.cfg.uninitReg = .fault) {q : RegIdx} (h0 : q ≠ 0)
    (hw : s.regWritten[q] = false) : s.snapshot[q] = .error .uninitRegRead := by
  rw [snapshot_get]
  exact regRead_fault (by simp [State.regUnreadable, h0, hw, h])

theorem snapshot_regInit (h : s.cfg.uninitReg = .fault) (d : Vector Word 32) :
    ({ s with cfg := { s.cfg with regInit := d } } : State).snapshot = s.snapshot := by
  simp only [State.snapshot, regRead_regInit h]

/-- Construction under fault leaves the same storage for every draw. -/
theorem resetWith_regInit {c : Config} (h : c.uninitReg = .fault) (d : Vector Word 32) :
    State.resetWith { c with regInit := d } =
      { State.resetWith c with cfg := { c with regInit := d } } := by
  simp only [State.resetWith, initialRegs_fault h,
    initialRegs_fault (c := { c with regInit := d }) h]

end Draws

/-- Settles O56: a step commutes with any change of unused draws (`step_withDraws`), of which the two
clauses about steps are the changes of one draw; the host's side reads no draw under fault. -/
theorem drawsUnusedUnderFault : Obligations.DrawsUnusedUnderFault := by
  refine ⟨fun s t ht => ⟨fun d h => ?_, fun m h => ?_⟩,
    fun s d h => ⟨snapshot_regInit h d, fun _ h0 hw => snapshot_unwritten h h0 hw⟩,
    fun c d h => resetWith_regInit h d, fun _ _ _ => rfl⟩
  · simpa only [State.withDraws, step_cfg ht] using
      step_withDraws (d := d) (m := s.cfg.memInit) ⟨.inl h, .inr rfl⟩ ht
  · simpa only [State.withDraws, step_cfg ht] using
      step_withDraws (d := s.cfg.regInit) (m := m) ⟨.inr rfl, .inl h⟩ ht

end Sys2Proof.Machine
end

section
/-! The state after construction and image load (10_state.md R38), and what an instruction leaves alone:
every register but its destination, `pc`, the parameters, and `power` but for EBREAK. -/

namespace Sys2Proof.Machine

open Sys2Proof.Claims

/-! ## Construction and image load -/

/-- A unit that has been built and loaded: the image fits, and is all that memory holds. -/
theorem boot_eq_some {c : Config} {image : List Byte} {s : State} : boot c image = some s ↔
    c.loadBase.toNat + image.length ≤ c.memSize ∧
      s = { State.resetWith c with mem := Memory.copy [] c.loadBase.toNat image } :=
  loadImage_eq_some

theorem resetWith_x_zero (c : Config) : (State.resetWith c).x[(0 : RegIdx)] = 0#32 :=
  getElem_setReg_same c.initialRegs 0 0#32

theorem resetWith_regWritten_get (c : Config) (r : RegIdx) :
    (State.resetWith c).regWritten[r] = decide (r = 0) := by
  refine (getElem_setReg (Vector.replicate 32 false) 0 r true).trans ?_
  by_cases h : r = 0
  · simp [h]
  · simp [h, Ne.symm h]

/-- What a register that nothing has written reads as (40_datapath_units.md R157). -/
theorem regRead_unwritten {s : State} {r : RegIdx} (h0 : r ≠ 0) (hw : s.regWritten[r] = false) :
    s.regRead (some r) =
      if s.cfg.uninitReg = .fault then .error .uninitRegRead else .ok s.cfg.regInit[r] := by
  simp [State.regRead, State.regUnreadable, State.regValue, h0, hw]

/-- Under `P_UNINIT_MEM` = fault an access that passes the other checks and finds an unwritten byte
faults (20_memory.md R62). -/
theorem busRead_unwritten {s : State} {a : Word} {n : Width} (g : Bool)
    (hc : inConsole s.cfg a = false) (hb : beyondMemory s.cfg a n = false)
    (ha : misaligned a n = false) (hu : s.cfg.uninitMem = .fault)
    (hw : s.allWritten a.toNat n = false) : s.busRead a n g = .error .uninitMemRead := by
  simp [State.busRead, hc, hb, ha, hu, hw]

/-- Memory after construction and image load holds the image and nothing else. -/
theorem get?_copy_nil_eq_none {a b : Nat} {image : List Byte}
    (h : ¬ (a ≤ b ∧ b < a + image.length)) : (Memory.copy [] a image).get? b = none := by
  rw [get?_copy, dif_neg h, get?_nil]

theorem get?_copy_nil_image {a i : Nat} {image : List Byte} (h : i < image.length) :
    (Memory.copy [] a image).get? (a + i) = some image[i] := by
  rw [get?_copy, dif_pos (by omega)]
  simp

/-- Settles O45: `boot_eq_some` gives the state field by field; the reads follow from its written bits
and from memory being the image alone. -/
theorem resetState : Obligations.ResetState := by
  intro c image s hs
  obtain ⟨-, rfl⟩ := boot_eq_some.1 hs
  refine ⟨rfl, resetWith_x_zero c, rfl, rfl, rfl, rfl, rfl, rfl, BitVec.sub_add_cancel _ _,
    resetWith_regWritten_get c, fun r h0 => ?_, fun i h => get?_copy_nil_image h,
    fun a h => ?_, fun a n g hc hb ha hu hex => ?_⟩
  · have hr := regRead_unwritten
      (s := { State.resetWith c with mem := Memory.copy [] c.loadBase.toNat image }) h0
      ((resetWith_regWritten_get c r).trans (decide_eq_false h0))
    exact ⟨fun hu => hr.trans (if_pos hu), fun hu => hr.trans (if_neg (by simp [hu]))⟩
  · have hn := get?_copy_nil_eq_none h
    exact ⟨hn, by simp only [State.byteAt, hn]; rfl⟩
  · obtain ⟨i, hi, hout⟩ := hex
    refine busRead_unwritten g (inConsole_eq_false.2 hc) (beyondMemory_eq_false.2 hb)
      (misaligned_eq_false.2 ha) hu ?_
    rw [← Bool.not_eq_true, allWritten_eq_true]
    intro hall
    simpa [State.written, get?_copy_nil_eq_none hout] using hall i hi

/-! ## The invariant at reset -/

theorem resetWith_inv (c : Config) : (State.resetWith c).Inv where
  memory := resetWith_wf c
  bounds := by simp
  zero := resetWith_x_zero c
  zeroWritten := resetWith_regWritten_get c 0
  halt := rfl

/-- An image that fits is loaded inside memory, and the loader touches nothing else of the invariant. -/
theorem loadImage_inv {s t : State} {image : List Byte} (h : s.Inv)
    (hl : s.loadImage image = some t) : t.Inv := by
  have hwf := loadImage_wf h.memory hl
  obtain ⟨hfit, rfl⟩ := loadImage_eq_some.1 hl
  refine ⟨hwf, fun c hc => ?_, h.zero, h.zeroWritten, h.halt⟩
  obtain ⟨-, hlt⟩ | hc := mem_copy hc
  · exact lt_of_lt_of_le hlt hfit
  · exact h.bounds c hc

/-- Settles O47: construction meets the invariant and the image loader keeps it. -/
theorem invariantHoldsAtReset : Obligations.InvariantHoldsAtReset :=
  ⟨fun c _ _ hs => loadImage_inv (resetWith_inv c) hs, resetWith_inv resetConfig, by decide⟩

/-! ## The registers that a bundle names are those of its instruction -/

theorem bundleOf_rd (i : Instr) : (bundleOf i).rd = destOf i := by cases i <;> rfl

theorem bundleOf_sources {i : Instr} {r : RegIdx} :
    (bundleOf i).rs1 = some r ∨ (bundleOf i).rs2 = some r ↔ r ∈ sourcesOf i := by
  cases i <;>
    simp [bundleOf, bundleR, bundleI, bundleLoad, bundleStore, bundleBranch, bundleU, bundleJump,
      bundleSys, sourcesOf, eq_comm]

theorem bundleOf_sys_eq_ebreak {i : Instr} : (bundleOf i).sys = .ebreak ↔ i = .ebreak := by
  cases i <;>
    simp [bundleOf, bundleR, bundleI, bundleLoad, bundleStore, bundleBranch, bundleU, bundleJump,
      bundleSys]

/-! ## What a cycle leaves alone -/

/-- A register write touches its own register alone, and x0 never (R157). -/
theorem regWrite_reg {i : Option RegIdx} {r : RegIdx} (h : i ≠ some r ∨ r = 0) (s : State) (v : Word)
    (we : Bool) : (s.regWrite i v we).x[r] = s.x[r] ∧
      (s.regWrite i v we).regWritten[r] = s.regWritten[r] := by
  obtain he | ⟨q, rfl, -, h0, he⟩ := regWrite_cases s i v we
  · rw [he]; exact ⟨rfl, rfl⟩
  · have hq : q ≠ r := by
      rintro rfl
      exact h.elim (fun h => h rfl) h0
    rw [he]
    exact ⟨getElem_setReg_other _ _ hq, getElem_setReg_other _ _ hq⟩

section Memory
variable {w v2 m : Word} {b : ControlBundle} {s t : State}

theorem memoryStage_x (h : memoryStage w b v2 s = .ok (t, m)) : t.x = s.x := by
  rw [memoryStage_frame h]

theorem memoryStage_regWritten (h : memoryStage w b v2 s = .ok (t, m)) :
    t.regWritten = s.regWritten := by rw [memoryStage_frame h]

theorem memoryStage_pc (h : memoryStage w b v2 s = .ok (t, m)) : t.pc = s.pc := by
  rw [memoryStage_frame h]

theorem memoryStage_power (h : memoryStage w b v2 s = .ok (t, m)) : t.power = s.power := by
  rw [memoryStage_frame h]

end Memory

theorem runBundle_reg {b : ControlBundle} {r : RegIdx} (h : b.rd ≠ some r ∨ r = 0) (w : Word)
    (s : State) : (runBundle w b s).x[r] = s.x[r] ∧
      (runBundle w b s).regWritten[r] = s.regWritten[r] := by
  obtain ⟨-, -, he⟩ | ⟨_, -, -, -, he⟩ | ⟨_, _, _, _, -, -, -, -, he⟩ |
    ⟨_, _, _, _, -, -, hm, he⟩ := runBundle_cases w b s
  case inr.inr.inr =>
    simp [he, writebackStage, regWrite_reg h, memoryStage_x hm, memoryStage_regWritten hm]
  all_goals simp [he]

@[simp] theorem runBundle_pc (w : Word) (b : ControlBundle) (s : State) :
    (runBundle w b s).pc = s.pc := by
  obtain ⟨-, -, he⟩ | ⟨_, -, -, -, he⟩ | ⟨_, _, _, _, -, -, -, -, he⟩ |
    ⟨_, _, _, _, -, -, hm, he⟩ := runBundle_cases w b s
  case inr.inr.inr => simp [he, memoryStage_pc hm]
  all_goals simp [he]

/-- `power` after a cycle: EBREAK clears it, nothing else changes it (40_datapath_units.md R158). -/
@[simp] theorem runBundle_power (w : Word) (b : ControlBundle) (s : State) :
    (runBundle w b s).power = (s.power && decide (b.sys ≠ .ebreak)) := by
  obtain ⟨hs, -, he⟩ | ⟨_, -, -, -, he⟩ | ⟨_, _, _, _, -, -, -, -, he⟩ |
    ⟨_, _, _, _, -, -, hm, he⟩ := runBundle_cases w b s
  case inl => simp [he, hs]
  case inr.inr.inr => simp [he, memoryStage_power hm]
  all_goals simp [he]

/-! ## What an instruction leaves alone -/

theorem exec_reg {i : Instr} {s t : State} (h : exec i s = .next t) {r : RegIdx}
    (hr : destOf i ≠ some r ∨ r = 0) : t.x[r] = s.x[r] ∧ t.regWritten[r] = s.regWritten[r] := by
  rw [← bundleOf_rd] at hr
  rw [exec_eq] at h
  cases h
  split
  · exact ⟨rfl, rfl⟩
  · exact runBundle_reg hr _ s

theorem exec_pc {i : Instr} {s t : State} (h : exec i s = .next t) : t.pc = s.pc := by
  rw [exec_eq] at h
  cases h
  split <;> simp

theorem exec_power {i : Instr} {s t : State} (h : exec i s = .next t) :
    t.power = (s.power && !decide (i = .ebreak)) := by
  rw [exec_eq] at h
  cases h
  split
  · next hs =>
    have hi : i ≠ .ebreak := by
      rintro rfl
      simp [isSlt] at hs
    simp [hi]
  · simp [bundleOf_sys_eq_ebreak]

theorem step_x_zero {s t : State} (h : step s = .next t) : t.x[(0 : RegIdx)] = s.x[(0 : RegIdx)] := by
  obtain ⟨-, ⟨k, -, rfl⟩ | ⟨w, -, -, rfl⟩ | ⟨w, i, -, -, hx⟩⟩ := step_cases h
  · rfl
  · rfl
  · exact (exec_reg hx (.inr rfl)).1

theorem step_pc {s t : State} (h : step s = .next t) : t.pc = s.nextPc := by
  obtain ⟨-, ⟨k, -, rfl⟩ | ⟨w, -, -, rfl⟩ | ⟨w, i, -, -, hx⟩⟩ := step_cases h
  · rfl
  · rfl
  · exact exec_pc hx

/-- Settles O51: no destination is x0 (`exec_reg`), and a read of x0 does not look at its storage. -/
theorem zeroRegisterIsNeverWritten : Obligations.ZeroRegisterIsNeverWritten :=
  ⟨resetWith_x_zero, fun _ _ _ h => (exec_reg h (.inr rfl)).1, fun _ _ h => step_x_zero h,
    fun s => (regRead_ok (regUnreadable_zero s)).trans (congrArg _ (regValue_zero s))⟩

/-- Settles O53: `pc` moves in the fetch of a step alone, and only a unit with power takes a step. -/
theorem pcParametersAndPower : Obligations.PcParametersAndPower := by
  refine ⟨fun i s t h => ⟨exec_pc h, exec_cfg h, exec_power h⟩,
    fun s t h => ⟨step_pc h, step_cfg h, fun _ => ?_⟩⟩
  have hr := (step_cases h).1
  exact (Bool.and_eq_true_iff.1 hr).1

end Sys2Proof.Machine
end

section
/-! Two runs side by side: states that differ only in registers an instruction does not read, in the latches
and in the fault record lead to states that differ only there (10_state.md R23, R29; 60_exceptions.md R351). -/

namespace Sys2Proof.Machine

open Sys2Proof.Claims

/-! ## The two relations -/

/-- `t` is `s` but for the registers `hidden`, for the two latches where `latches` holds, and for the fault
record where `record` holds. -/
structure SameBut (hidden : RegIdx → Prop) (latches record : Prop) (s t : State) : Prop where
  cfg : t.cfg = s.cfg
  pc : t.pc = s.pc
  power : t.power = s.power
  status : t.status = s.status
  mem : t.mem = s.mem
  consoleOut : t.consoleOut = s.consoleOut
  reg : ∀ q, ¬ hidden q → t.x[q] = s.x[q] ∧ t.regWritten[q] = s.regWritten[q]
  latch : ¬ latches → t.pcSelLatch = s.pcSelLatch ∧ t.aluLatch = s.aluLatch
  fault : ¬ record → t.fault = s.fault

/-- Two runs of a stage end alike: both end the cycle, in states related by `R`, or both go on, with results
related by `Q`. -/
inductive EndAlike {α : Type} (R : State → State → Prop) (Q : α → α → Prop) :
    Except State α → Except State α → Prop where
  | stop {s t : State} (h : R s t) : EndAlike R Q (.error s) (.error t)
  | pass {a b : α} (h : Q a b) : EndAlike R Q (.ok a) (.ok b)

section TwoRuns
variable {hidden : RegIdx → Prop} {latches record : Prop} {s t : State}

/-! ## Each stage keeps the relation -/

theorem SameBut.raise (h : SameBut hidden latches record s t) (k : FaultKind) (st : Stage)
    (w a : Option Word) (r : Option RegIdx) :
    SameBut hidden latches record (s.raise k st w a r) (t.raise k st w a r) :=
  { h with status := rfl, fault := fun _ => by simp [h.pc] }

theorem SameBut.decodeFault (h : SameBut hidden latches record s t) (k : FaultKind) (w : Word)
    (r : Option RegIdx) : SameBut hidden latches record (s.decodeFault k w r) (t.decodeFault k w r) :=
  h.raise k .decode (some w) none r

theorem SameBut.afterSys (h : SameBut hidden latches record s t) (b : ControlBundle) :
    SameBut hidden latches record (afterSys b s) (afterSys b t) :=
  { h with power := by simp [h.power] }

theorem SameBut.sysPhase (h : SameBut hidden latches record s t) (w : Word) (b : ControlBundle) :
    EndAlike (SameBut hidden latches record) (SameBut hidden latches record)
      (sysPhase w b s) (sysPhase w b t) := by
  obtain ⟨hb, he, hs⟩ | ⟨hn, hs⟩ := sysPhase_cases w b s <;>
    obtain ⟨hb', he', ht⟩ | ⟨hn', ht⟩ := sysPhase_cases w b t
  · rw [hs, ht]
    exact .stop (h.decodeFault _ _ _)
  · exact absurd ⟨hb, h.cfg ▸ he⟩ hn'
  · exact absurd ⟨hb', h.cfg ▸ he'⟩ hn
  · rw [hs, ht]
    exact .pass (h.afterSys b)

/-- A register that is not hidden reads the same. -/
theorem SameBut.regRead (h : SameBut hidden latches record s t) {i : Option RegIdx}
    (hi : ∀ r, i = some r → ¬ hidden r) : t.regRead i = s.regRead i := by
  cases i with
  | none => rfl
  | some r =>
    obtain ⟨hx, hw⟩ := h.reg r (hi r rfl)
    have hu : t.regUnreadable r = s.regUnreadable r := by simp [State.regUnreadable, hw, h.cfg]
    have hv : t.regValue r = s.regValue r := by simp [State.regValue, hx, hw, h.cfg]
    simp only [State.regRead, hu, hv]

theorem SameBut.readPhase (h : SameBut hidden latches record s t) {b : ControlBundle}
    (hb : ∀ r, b.rs1 = some r ∨ b.rs2 = some r → ¬ hidden r) (w : Word) :
    EndAlike (SameBut hidden latches record) Eq (readPhase w b s) (readPhase w b t) := by
  simp only [Machine.readPhase, h.regRead fun r hr => hb r (.inl hr),
    h.regRead fun r hr => hb r (.inr hr)]
  cases s.regRead b.rs1 with
  | error k => exact .stop (h.decodeFault _ _ _)
  | ok v1 =>
    cases s.regRead b.rs2 with
    | error k => exact .stop (h.decodeFault _ _ _)
    | ok v2 => exact .pass rfl

/-- Execute sets both latches: from there on they agree, whatever they were. -/
theorem SameBut.executeStage (h : SameBut hidden latches record s t) (b : ControlBundle)
    (v1 v2 : Word) :
    SameBut hidden False record (executeStage b v1 v2 s) (executeStage b v1 v2 t) :=
  { h with latch := fun _ => by simp [h.pc] }

theorem SameBut.busWrite (h : SameBut hidden latches record s t) (a : Word) (n : Width) (v : Word) :
    (∃ k, s.busWrite a n v = .error k ∧ t.busWrite a n v = .error k) ∨
      ∃ s' t', s.busWrite a n v = .ok s' ∧ t.busWrite a n v = .ok t' ∧
        SameBut hidden latches record s' t' := by
  have hc : inConsole t.cfg a = inConsole s.cfg a := by rw [h.cfg]
  have hb : beyondMemory t.cfg a n = beyondMemory s.cfg a n := by rw [h.cfg]
  simp only [State.busWrite, hc, hb]
  split_ifs
  · exact .inl ⟨_, rfl, rfl⟩
  · exact .inr ⟨_, _, rfl, rfl, { h with consoleOut := by simp [h.consoleOut] }⟩
  · exact .inl ⟨_, rfl, rfl⟩
  · exact .inl ⟨_, rfl, rfl⟩
  · exact .inr ⟨_, _, rfl, rfl, { h with mem := by simp [h.mem] }⟩

/-- Memory accesses the address in `alu_latch`, so the latches have to agree. -/
theorem SameBut.memoryStage (h : SameBut hidden False record s t) (w : Word) (b : ControlBundle)
    (v2 : Word) :
    EndAlike (SameBut hidden False record)
      (fun p q => SameBut hidden False record p.1 q.1 ∧ q.2 = p.2)
      (memoryStage w b v2 s) (memoryStage w b v2 t) := by
  simp only [Machine.memoryStage, (h.latch id).2, busRead_congr h.cfg h.mem]
  split
  · next n _ _ =>
    cases s.busRead s.aluLatch n b.memSigned with
    | error k => exact .stop (h.raise _ _ _ _ _)
    | ok m => exact .pass ⟨h, rfl⟩
  · next n _ _ =>
    obtain ⟨k, hs, ht⟩ | ⟨s', t', hs, ht, h'⟩ := h.busWrite s.aluLatch n v2 <;> rw [hs, ht]
    · exact .stop (h.raise _ _ _ _ _)
    · exact .pass ⟨h', rfl⟩
  · exact .pass ⟨h, rfl⟩

theorem SameBut.regWrite (h : SameBut hidden latches record s t) (i : Option RegIdx) (v : Word)
    (we : Bool) : SameBut hidden latches record (s.regWrite i v we) (t.regWrite i v we) := by
  cases i with
  | none => exact h
  | some r =>
    by_cases hw : we = true ∧ r ≠ 0
    · obtain ⟨rfl, h0⟩ := hw
      rw [regWrite_some s v h0, regWrite_some t v h0]
      exact { h with reg := fun q hq => by simp only [getElem_setReg, h.reg q hq, and_self] }
    · simp only [State.regWrite, if_neg hw]
      exact h

/-- The value written back may be the ALU's result, which is read from its latch. -/
theorem SameBut.writebackStage (h : SameBut hidden False record s t) (b : ControlBundle) (m : Word) :
    SameBut hidden False record (writebackStage b m s) (writebackStage b m t) := by
  simp only [Machine.writebackStage, (h.latch id).2, h.pc]
  exact h.regWrite _ _ _

theorem SameBut.endOfCycle (h : SameBut hidden latches record s t) :
    SameBut hidden latches record (endOfCycle s) (endOfCycle t) := by
  cases hp : s.power with
  | true => rwa [endOfCycle_running hp, endOfCycle_running (h.power.trans hp)]
  | false =>
    rw [endOfCycle_off hp, endOfCycle_off (h.power.trans hp)]
    exact { h with status := rfl }

/-! ## The whole cycle -/

/-- Latches that agree may be forgotten. -/
theorem SameBut.forgetLatches (h : SameBut hidden False record s t) :
    SameBut hidden latches record s t := { h with latch := fun _ => h.latch id }

theorem SameBut.runBundle (h : SameBut hidden latches record s t) {b : ControlBundle}
    (hb : ∀ r, b.rs1 = some r ∨ b.rs2 = some r → ¬ hidden r) (w : Word) :
    SameBut hidden latches record (runBundle w b s) (runBundle w b t) := by
  unfold Machine.runBundle
  have hsys := h.sysPhase w b
  generalize Machine.sysPhase w b s = x, Machine.sysPhase w b t = y at hsys ⊢
  cases hsys with
  | stop h => exact h
  | @pass s1 t1 h =>
    dsimp only
    have hread := h.readPhase hb w
    generalize Machine.readPhase w b s1 = x, Machine.readPhase w b t1 = y at hread ⊢
    cases hread with
    | stop h => exact h
    | @pass v _ hv =>
      subst hv
      dsimp only
      have hmem := (h.executeStage b v.1 v.2).memoryStage w b v.2
      generalize Machine.memoryStage w b v.2 (Machine.executeStage b v.1 v.2 s1) = x,
        Machine.memoryStage w b v.2 (Machine.executeStage b v.1 v.2 t1) = y at hmem ⊢
      cases hmem with
      | stop h => exact h.forgetLatches
      | @pass p q hpq =>
        obtain ⟨hst, hm⟩ := hpq
        dsimp only
        rw [hm]
        exact (hst.writebackStage b p.2).endOfCycle.forgetLatches

/-- Two runs of one instruction from states that differ in nothing it reads. -/
theorem SameBut.exec (h : SameBut hidden latches record s t) {i : Instr}
    (hi : ∀ r ∈ sourcesOf i, ¬ hidden r) {s' : State} (hs : exec i s = .next s') :
    ∃ t', exec i t = .next t' ∧ SameBut hidden latches record s' t' := by
  rw [exec_eq] at hs
  cases hs
  refine ⟨_, exec_eq i t, ?_⟩
  rw [h.cfg]
  split
  · exact h.decodeFault _ _ _
  · exact h.runBundle (fun r hr => hi r (bundleOf_sources.1 hr)) _

/-! ## What the relation says when only one of the three differences is allowed -/

theorem SameBut.eq_off_registers (h : SameBut hidden False False s t) :
    { t with x := s.x, regWritten := s.regWritten } = s := by
  obtain ⟨hsel, hlat⟩ := h.latch id
  cases s
  simp [h.cfg, h.pc, h.power, h.status, h.mem, h.consoleOut, hsel, hlat, h.fault id]

theorem SameBut.eq_off_latches (h : SameBut (fun _ => False) latches record s t) :
    { t with pcSelLatch := s.pcSelLatch, aluLatch := s.aluLatch, fault := s.fault } = s := by
  have hx : t.x = s.x := Vector.ext fun n hn => (h.reg ⟨n, hn⟩ id).1
  have hw : t.regWritten = s.regWritten := Vector.ext fun n hn => (h.reg ⟨n, hn⟩ id).2
  cases s
  simp [h.cfg, h.pc, h.power, h.status, h.mem, h.consoleOut, hx, hw]

end TwoRuns

/-- A change of one register's storage and written bit. -/
theorem sameBut_setReg (s : State) (r : RegIdx) (v : Word) (b : Bool) :
    SameBut (· = r) False False s
      { s with x := s.x.set r.val v r.isLt, regWritten := s.regWritten.set r.val b r.isLt } :=
  ⟨rfl, rfl, rfl, rfl, rfl, rfl,
    fun _ hq => ⟨getElem_setReg_other _ _ (Ne.symm hq), getElem_setReg_other _ _ (Ne.symm hq)⟩,
    fun _ => ⟨rfl, rfl⟩, fun _ => rfl⟩

/-- A change of the latches and the fault record. -/
theorem sameBut_setLatches (s : State) (l : PcSel) (a : Word) (f : Option FaultRecord) :
    SameBut (fun _ => False) True True s { s with pcSelLatch := l, aluLatch := a, fault := f } :=
  ⟨rfl, rfl, rfl, rfl, rfl, rfl, fun _ _ => ⟨rfl, rfl⟩, fun h => absurd trivial h,
    fun h => absurd trivial h⟩

/-- Settles O50: the write frame is `exec_reg`; a register that is no source may be hidden from the run. -/
theorem registersWrittenAndRead : Obligations.RegistersWrittenAndRead := by
  refine ⟨fun i s t h r hr => exec_reg h hr, fun i s t r v b hr h => ?_⟩
  obtain ⟨u, hu, hsame⟩ := (sameBut_setReg s r v b).exec (fun q hq he => hr (he ▸ hq)) h
  exact ⟨u, hu, hsame.eq_off_registers, hsame.reg⟩

/-- Settles O55: no stage before Execute reads the latches, Execute sets both, and none reads the record. -/
theorem latchesAndRecordAreInvisible : Obligations.LatchesAndRecordAreInvisible := by
  intro i s t l a f h
  obtain ⟨u, hu, hsame⟩ := (sameBut_setLatches s l a f).exec (fun _ _ => id) h
  exact ⟨u, hu, hsame.eq_off_latches⟩

end Sys2Proof.Machine
end

section
/-! The bus and memory (20_memory.md R50 to R73): the checks and the bits of an access, what an access sees of
earlier ones, the image loader, and which instructions reach memory or the console at all. -/

namespace Sys2Proof.Machine

open Sys2Proof.Claims

/-! ## A read: its checks, and the bits of its word -/

theorem allWritten_eq_false {s : State} {a : Nat} {n : Width} :
    s.allWritten a n = false ↔ ¬ AllWritten s a n.bytes := by
  rw [← Bool.not_eq_true, allWritten_eq_true]
  rfl

/-- A read answers its first failing check, or else the bytes assembled (20_memory.md R57, R58). -/
theorem busRead_eq (s : State) (a : Word) (n : Width) (g : Bool) : s.busRead a n g =
    (readFault s a n.bytes).elim (.ok (s.assemble a.toNat n g)) .error := by
  simp only [State.busRead, readFault, inConsole_eq_true, beyondMemory_eq_true, misaligned_eq_true,
    allWritten_eq_false, gt_iff_lt]
  split_ifs <;> rfl

/-- Every bit of a byte or halfword extended to a word: its own bits, then its sign or 0 (R58). -/
theorem getLsbD_extend {w : Nat} (v : BitVec w) (g : Bool) {j : Nat} (hj : j < 32) :
    (if g then v.signExtend 32 else v.setWidth 32 : Word).getLsbD j =
      if j < w then v.getLsbD j else g && v.msb := by
  cases g with
  | true => exact (BitVec.getLsbD_signExtend v).trans (by simp only [hj, decide_true, Bool.true_and])
  | false =>
    simp only [Bool.false_eq_true, if_false, BitVec.getLsbD_setWidth, hj, decide_true, Bool.true_and,
      Bool.false_and]
    split
    · rfl
    · next h => exact BitVec.getLsbD_of_ge v j (not_lt.1 h)

/-- Bit `j` of the bytes at `a` and up lies in the byte `j / 8`. -/
theorem getLsbD_byteAt (s : State) (a : Nat) {i j : Nat} (hij : 8 * i ≤ j ∧ j < 8 * i + 8) :
    (s.byteAt (a + j / 8)).getLsbD (j % 8) = (s.byteAt (a + i)).getLsbD (j - 8 * i) := by
  have hdiv : j / 8 = i := by omega
  have hmod : j % 8 = j - 8 * i := by omega
  rw [hdiv, hmod]

/-- The bits of an assembled word that lie in the bytes read, the least significant byte first (R53). -/
theorem getLsbD_assemble_lt (s : State) (a : Nat) (n : Width) (g : Bool) {j : Nat}
    (hj : j < 8 * n.bytes) :
    (s.assemble a n g).getLsbD j = (s.byteAt (a + j / 8)).getLsbD (j % 8) := by
  cases n with
  | byte =>
    have hj : j < 8 := hj
    refine (getLsbD_extend _ g (by omega)).trans ?_
    rw [if_pos hj, getLsbD_byteAt s a (i := 0) (by omega)]
    rfl
  | half =>
    have hj : j < 16 := hj
    refine (getLsbD_extend _ g (by omega)).trans ?_
    rw [if_pos hj, BitVec.getLsbD_append]
    split_ifs
    · exact (getLsbD_byteAt s a (i := 0) (by omega)).symm
    · exact (getLsbD_byteAt s a (i := 1) (by omega)).symm
  | word =>
    have hj : j < 32 := hj
    simp only [State.assemble, wordOfBytes]
    rw [BitVec.getLsbD_append, BitVec.getLsbD_append, BitVec.getLsbD_append]
    split_ifs
    · exact (getLsbD_byteAt s a (i := 0) (by omega)).symm
    · exact (getLsbD_byteAt s a (i := 1) (by omega)).symm
    · exact (getLsbD_byteAt s a (i := 2) (by omega)).symm
    · exact (getLsbD_byteAt s a (i := 3) (by omega)).symm

/-- The bits of an assembled word above the bytes read: the sign bit of a signed byte or halfword, else 0
(R58). -/
theorem getLsbD_assemble_ge (s : State) (a : Nat) (n : Width) (g : Bool) {j : Nat} (hj : j < 32)
    (hn : ¬ j < 8 * n.bytes) : (s.assemble a n g).getLsbD j =
      (g && decide (n.bytes < 4) && (s.byteAt (a + n.bytes - 1)).getLsbD 7) := by
  cases n with
  | byte =>
    have hn : ¬ j < 8 := hn
    refine ((getLsbD_extend _ g hj).trans (if_neg hn)).trans ?_
    rw [BitVec.msb_eq_getLsbD_last]
    simp [Width.bytes]
  | half =>
    have hn : ¬ j < 16 := hn
    refine ((getLsbD_extend _ g hj).trans (if_neg hn)).trans ?_
    rw [BitVec.msb_append, if_neg (by decide), BitVec.msb_eq_getLsbD_last]
    simp [Width.bytes]
  | word => exact absurd hj hn

/-- Every bit of an assembled word. -/
theorem getLsbD_assemble (s : State) (a : Nat) (n : Width) (g : Bool) {j : Nat} (hj : j < 32) :
    (s.assemble a n g).getLsbD j =
      if j < 8 * n.bytes then (s.byteAt (a + j / 8)).getLsbD (j % 8)
      else g && decide (n.bytes < 4) && (s.byteAt (a + n.bytes - 1)).getLsbD 7 := by
  split
  · next h => exact getLsbD_assemble_lt s a n g h
  · next h => exact getLsbD_assemble_ge s a n g hj h

/-- Settles O40: the checks are those of `busRead_eq`, the bits those of `getLsbD_assemble`. -/
theorem busReadChecksAndValue : Obligations.BusReadChecksAndValue := by
  intro s a n g
  rw [busRead_eq]
  refine ⟨fun k hk => by rw [hk]; rfl, fun hn => ⟨s.assemble a.toNat n g, by rw [hn]; rfl, ?_⟩⟩
  exact fun j hj => getLsbD_assemble s a.toNat n g hj

/-! ## A write: its checks, and what it writes -/

/-- A write answers its first failing check, or else emits a byte or stores its bytes (R59, R60). -/
theorem busWrite_eq (s : State) (a : Word) (n : Width) (v : Word) : s.busWrite a n v =
    (writeFault s.cfg a n.bytes).elim
      (.ok (if AtConsole s.cfg a then { s with consoleOut := s.consoleOut ++ [v.setWidth 8] }
        else { s with mem := s.mem.store a.toNat n v })) .error := by
  simp only [State.busWrite, writeFault, inConsole_eq_true, beyondMemory_eq_true, misaligned_eq_true,
    gt_iff_lt]
  split_ifs <;> simp [BitVec.setWidth_eq_extractLsb']

/-- A store into memory writes its bytes and nothing else (R53, R59). -/
theorem storesBytes_store (s : State) (a : Nat) (n : Width) (v : Word) :
    StoresBytes s { s with mem := s.mem.store a n v } a n.bytes v := by
  refine ⟨rfl, fun b => ?_⟩
  rw [get?_store, BitVec.extractLsb', Nat.shiftRight_eq_div_pow]

/-- Settles O41: `busWrite_eq` in its three cases, with `storesBytes_store` for the one that reaches memory. -/
theorem busWriteChecksAndEffect : Obligations.BusWriteChecksAndEffect := by
  intro s a n v
  rw [busWrite_eq]
  refine ⟨fun k hk => by rw [hk]; rfl, fun hn hc => by rw [hn, if_pos hc]; rfl, fun hn hc => ?_⟩
  rw [hn, if_neg hc]
  exact ⟨_, rfl, storesBytes_store s a.toNat n v⟩

/-! ## What an access sees of earlier ones -/

/-- A read of bytes that lie within an earlier store returns those bytes of the value stored, whatever the two
widths (R54). -/
theorem busRead_within_store {s : State} {a : Nat} {n : Width} (v : Word) {b : Word} {m : Width} {d : Nat}
    (hd : d + m.bytes ≤ n.bytes) (hb : b.toNat = a + d) (hcon : ¬ AtConsole s.cfg b)
    (hmem : b.toNat + m.bytes ≤ s.cfg.memSize) (hal : b.toNat % m.bytes = 0) :
    State.busRead { s with mem := s.mem.store a n v } b m false =
      .ok ((v.extractLsb' (8 * d) (8 * m.bytes)).setWidth 32) := by
  refine busRead_eq_ok.2 ⟨inConsole_eq_false.2 hcon, beyondMemory_eq_false.2 hmem,
    misaligned_eq_false.2 hal, .inr (allWritten_eq_true.2 fun i hi => ?_), ?_⟩
  · simp only [written_store, Bool.or_eq_true, decide_eq_true_eq]
    omega
  · refine BitVec.eq_of_getLsbD_eq fun j hj => ?_
    rw [getLsbD_assemble _ _ _ _ hj, BitVec.getLsbD_setWidth, BitVec.getLsbD_extractLsb']
    by_cases hjm : j < 8 * m.bytes
    · have hin : a ≤ b.toNat + j / 8 ∧ b.toNat + j / 8 < a + n.bytes := by omega
      have hbit : 8 * (b.toNat + j / 8 - a) + j % 8 = 8 * d + j := by omega
      rw [if_pos hjm, byteAt_store, if_pos hin, BitVec.getLsbD_extractLsb', hbit]
      simp [hj, hjm, Nat.mod_lt]
    · simp [hjm]

/-- A word read at the address of a word store returns the word stored. -/
theorem busRead_store_word {s : State} {a : Word} (v : Word) (hcon : ¬ AtConsole s.cfg a)
    (hmem : a.toNat + 4 ≤ s.cfg.memSize) (hal : a.toNat % 4 = 0) :
    State.busRead { s with mem := s.mem.store a.toNat .word v } a .word false = .ok v := by
  refine (busRead_within_store v (n := .word) (m := .word) (d := 0) (le_refl _) rfl hcon hmem
    hal).trans ?_
  simp [Width.bytes]

/-- The addresses of an aligned word's bytes do not wrap. -/
theorem toNat_add_of_aligned {a : Word} (ha : a.toNat % 4 = 0) {i : Nat} (hi : i < 4) :
    (a + BitVec.ofNat 32 i).toNat = a.toNat + i := by
  rw [BitVec.toNat_add, BitVec.toNat_ofNat]
  omega

/-- The byte write that reaches memory. -/
theorem busWrite_byte {s : State} {a : Word} (b : Byte) (hcon : ¬ AtConsole s.cfg a)
    (hmem : a.toNat + 1 ≤ s.cfg.memSize) :
    s.busWrite a .byte (b.setWidth 32) = .ok { s with mem := s.mem.set a.toNat b } := by
  refine busWrite_eq_ok.2 ⟨misaligned_eq_false.2 (Nat.mod_one _), .inr ⟨inConsole_eq_false.2 hcon,
    beyondMemory_eq_false.2 hmem, ?_⟩⟩
  have hb : (b.setWidth 32).extractLsb' 0 8 = b := by
    rw [← BitVec.setWidth_eq_extractLsb' (by decide)]; simp
  simp [Memory.store, hb]

/-- The bytes of a word assembled from four. -/
theorem extractLsb'_wordOfBytes (b0 b1 b2 b3 : Byte) :
    (wordOfBytes b0 b1 b2 b3).extractLsb' 0 8 = b0 ∧ (wordOfBytes b0 b1 b2 b3).extractLsb' 8 8 = b1 ∧
    (wordOfBytes b0 b1 b2 b3).extractLsb' 16 8 = b2 ∧ (wordOfBytes b0 b1 b2 b3).extractLsb' 24 8 = b3 := by
  unfold wordOfBytes
  refine ⟨?_, ?_, ?_, ?_⟩
  · rw [BitVec.extractLsb'_append_eq_of_add_le (by decide), BitVec.extractLsb'_eq_self]
  · rw [BitVec.extractLsb'_append_eq_of_le (by decide),
      BitVec.extractLsb'_append_eq_of_add_le (by decide), BitVec.extractLsb'_eq_self]
  · rw [BitVec.extractLsb'_append_eq_of_le (by decide), BitVec.extractLsb'_append_eq_of_le (by decide),
      BitVec.extractLsb'_append_eq_of_add_le (by decide), BitVec.extractLsb'_eq_self]
  · rw [BitVec.extractLsb'_append_eq_of_le (by decide), BitVec.extractLsb'_append_eq_of_le (by decide),
      BitVec.extractLsb'_append_eq_of_le (by decide), BitVec.extractLsb'_eq_self]

/-- The word store of four bytes writes each of them, the least significant first (R53). -/
theorem store_wordOfBytes (m : Memory) (a : Nat) (b0 b1 b2 b3 : Byte) :
    m.store a .word (wordOfBytes b0 b1 b2 b3) =
      (((m.set a b0).set (a + 1) b1).set (a + 2) b2).set (a + 3) b3 := by
  obtain ⟨h0, h1, h2, h3⟩ := extractLsb'_wordOfBytes b0 b1 b2 b3
  rw [Memory.store, h0, h1, h2, h3]

/-- Settles O42: the narrow reads lie within the word store, and four byte writes are the word store of their
bytes. -/
theorem mixedWidthAccessesSeeBytes : Obligations.MixedWidthAccessesSeeBytes := by
  intro s t a v h0 h1 h2 h3 hmem hal
  have hat : ∀ i < 4, (a + BitVec.ofNat 32 i).toNat = a.toNat + i := fun i => toNat_add_of_aligned hal
  refine ⟨fun ht => ?_, fun b0 b1 b2 b3 => ?_⟩
  · obtain ⟨-, ⟨hc, -⟩ | ⟨-, -, rfl⟩⟩ := busWrite_eq_ok.1 ht
    · exact absurd (inConsole_eq_true.1 hc) h0
    have hcon : ∀ i < 4, ¬ AtConsole s.cfg (a + BitVec.ofNat 32 i) := by
      intro i hi
      interval_cases i
      · simpa using h0
      · exact h1
      · exact h2
      · exact h3
    have hat2 : (a + 2#32).toNat = a.toNat + 2 := hat 2 (by decide)
    refine ⟨fun i hi => ?_, ?_⟩
    · refine busRead_within_store v (m := .byte) ?_ (hat i hi) (hcon i hi) ?_ (Nat.mod_one _) <;>
        simp only [Width.bytes, hat i hi] <;> omega
    · refine busRead_within_store v (m := .half) (d := 2) (le_refl 4) hat2 h2 ?_ ?_ <;>
        simp only [Width.bytes, hat2] <;> omega
  · have hw1 := hat 1 (by decide)
    have hw2 := hat 2 (by decide)
    have hw3 := hat 3 (by decide)
    refine ⟨_, _, _, _, busWrite_byte b0 h0 (by omega), busWrite_byte b1 h1 (by dsimp only; omega),
      busWrite_byte b2 h2 (by dsimp only; omega), busWrite_byte b3 h3 (by dsimp only; omega), ?_⟩
    rw [hw1, hw2, hw3, ← store_wordOfBytes]
    exact busRead_store_word (wordOfBytes b0 b1 b2 b3) h0 hmem hal

/-! ## The next fetch -/

/-- The fetch after a word store at the next fetch address reads the word stored. -/
theorem fetchStage_store_word {s : State} (v : Word) (hcon : ¬ AtConsole s.cfg s.nextPc)
    (hmem : s.nextPc.toNat + 4 ≤ s.cfg.memSize) (hal : s.nextPc.toNat % 4 = 0) :
    fetchStage { s with mem := s.mem.store s.nextPc.toNat .word v } =
      .ok ({ s with mem := s.mem.store s.nextPc.toNat .word v, pc := s.nextPc }, v) :=
  fetchStage_ok.2 ⟨rfl, busRead_store_word v hcon hmem hal⟩

/-- Settles O44: `withFetchWord` is a word store at the next fetch address. -/
theorem placedWordIsTheNextFetch : Obligations.PlacedWordIsTheNextFetch := by
  intro s w hcon hmem hal hw
  have hplaced : s.withFetchWord 32 w =
      { s with mem := s.mem.store s.nextPc.toNat .word (BitVec.ofNat 32 w) } := by
    rw [State.withFetchWord, State.placeWord, Nat.mod_eq_of_lt hw]
  rw [hplaced]
  exact ⟨storesBytes_store s s.nextPc.toNat .word _, fetchStage_store_word _ hcon hmem hal⟩

/-- The Memory stage that writes and succeeds has written on the bus (41_execution_cycle.md R174). -/
theorem memoryStage_write {w v2 m : Word} {b : ControlBundle} {n : Width} {s t : State}
    (hb : b.memOp = .write) (hn : b.memWidth = some n) (h : memoryStage w b v2 s = .ok (t, m)) :
    s.busWrite s.aluLatch n v2 = .ok t := by
  simp only [memoryStage, hb, hn] at h
  cases hw : s.busWrite s.aluLatch n v2 with
  | error k => simp [hw] at h
  | ok u =>
    simp only [hw, Except.ok.injEq, Prod.mk.injEq] at h
    rw [h.1]

/-- A store that leaves the unit running has written on the bus, and the cycle changed nothing after it. -/
theorem runBundle_store_running {n : Width} {rs1 rs2 : RegIdx} {off : BitVec 12} {w : Word}
    {s t : State} (ht : runBundle w (bundleStore n rs1 rs2 off) s = t) (hr : t.isRunning = true) :
    (executeStage (bundleStore n rs1 rs2 off) (s.regValue rs1) (s.regValue rs2) s).busWrite
      (s.regValue rs1 + off.signExtend 32) n (s.regValue rs2) = .ok t := by
  subst ht
  obtain ⟨-, -, he⟩ | ⟨_, -, -, -, he⟩ | ⟨_, _, _, _, -, -, -, -, he⟩ | ⟨v1, v2, u, m, h1, h2, hm, he⟩ :=
    runBundle_cases w (bundleStore n rs1 rs2 off) s
  case inr.inr.inr =>
    obtain rfl := regRead_value h1
    obtain rfl := regRead_value h2
    have hp : u.power = true := by
      rw [he, State.isRunning, Bool.and_eq_true] at hr
      simpa using hr.1
    have hu : runBundle w (bundleStore n rs1 rs2 off) s = u := he.trans (endOfCycle_running hp)
    rw [afterSys_eq (b := bundleStore n rs1 rs2 off) (by simp [bundleStore])] at hm
    rw [hu]
    exact memoryStage_write rfl rfl hm
  all_goals simp [he, State.isRunning] at hr

/-- Settles O43: SW that completes outside the console is a word store at its address. -/
theorem nextFetchSeesTheStore : Obligations.NextFetchSeesTheStore := by
  intro rs1 rs2 off s t _ hx hr hcon hpc
  rw [exec_runs (by simp [isSlt])] at hx
  have hw := runBundle_store_running (Host.Outcome.next.inj hx) hr
  rw [← hpc] at hw
  obtain ⟨hal, ⟨hc, -⟩ | ⟨-, hmem, ht⟩⟩ := busWrite_eq_ok.1 hw
  · exact absurd (inConsole_eq_true.1 hc) hcon
  have hread := busRead_store_word (s := s) (s.regValue rs2) hcon (beyondMemory_eq_false.1 hmem)
    (misaligned_eq_false.1 hal)
  exact fetchStage_ok.2 ⟨rfl,
    (busRead_congr (congrArg State.cfg ht) (congrArg State.mem ht) _ _ _).trans hread⟩

/-! ## The image loader -/

theorem loadImage_eq_none {s : State} {image : List Byte} : s.loadImage image = none ↔
    s.cfg.loadBase.toNat + image.length > s.cfg.memSize := by
  unfold State.loadImage
  split <;> simp_all

/-- Settles O46: the two outcomes of the loader, and every byte of memory after its copy. -/
theorem imageLoader : Obligations.ImageLoader := by
  refine fun s image => ⟨loadImage_eq_none, fun t ht => ?_⟩
  obtain ⟨-, rfl⟩ := loadImage_eq_some.1 ht
  refine ⟨rfl, fun a => ?_⟩
  rw [get?_copy]
  split
  · exact (List.getElem?_eq_getElem _).symm
  · rfl

/-! ## What reaches memory and the console -/

theorem bundleOf_memOp_eq_write {i : Instr} : (bundleOf i).memOp = .write ↔ isStore i = true := by
  cases i <;>
    simp [bundleOf, bundleR, bundleI, bundleLoad, bundleStore, bundleBranch, bundleU, bundleJump,
      bundleSys, isStore]

/-- A cycle without a bus write leaves memory and the console alone (R52). -/
theorem runBundle_no_write {b : ControlBundle} (hb : b.memOp ≠ .write) (w : Word) (s : State) :
    (runBundle w b s).mem = s.mem ∧ (runBundle w b s).consoleOut = s.consoleOut := by
  obtain ⟨-, -, he⟩ | ⟨_, -, -, -, he⟩ | ⟨_, _, _, _, -, -, -, -, he⟩ | ⟨_, _, _, _, -, -, hm, he⟩ :=
    runBundle_cases w b s
  case inr.inr.inr =>
    obtain ⟨rfl, -⟩ | ⟨hw, -⟩ := memoryStage_ok hm
    · simp [he]
    · exact absurd hw hb
  all_goals simp [he]

/-- From `s` to `t` the console has emitted nothing, or one byte with memory unchanged (10_state.md R32;
R60). -/
def EmitsAtMostOne (s t : State) : Prop :=
  t.consoleOut = s.consoleOut ∨ (t.mem = s.mem ∧ ∃ b, t.consoleOut = s.consoleOut ++ [b])

theorem busWrite_emits {s t : State} {a : Word} {n : Width} {v : Word}
    (h : s.busWrite a n v = .ok t) : EmitsAtMostOne s t := by
  obtain ⟨-, ⟨-, rfl⟩ | ⟨-, -, rfl⟩⟩ := busWrite_eq_ok.1 h
  · exact .inr ⟨rfl, _, rfl⟩
  · exact .inl rfl

theorem memoryStage_emits {w v2 m : Word} {b : ControlBundle} {s t : State}
    (h : memoryStage w b v2 s = .ok (t, m)) : EmitsAtMostOne s t := by
  obtain ⟨rfl, -⟩ | ⟨-, n, -, hw⟩ := memoryStage_ok h
  · exact .inl rfl
  · exact busWrite_emits hw

theorem runBundle_emits (w : Word) (b : ControlBundle) (s : State) :
    EmitsAtMostOne s (runBundle w b s) := by
  obtain ⟨-, -, he⟩ | ⟨_, -, -, -, he⟩ | ⟨_, _, _, _, -, -, -, -, he⟩ | ⟨_, _, _, _, -, -, hm, he⟩ :=
    runBundle_cases w b s
  case inr.inr.inr => simpa [EmitsAtMostOne, he] using memoryStage_emits hm
  all_goals exact .inl (by simp [he])

theorem exec_emits {i : Instr} {s t : State} (h : exec i s = .next t) : EmitsAtMostOne s t := by
  rw [exec_eq] at h
  cases h
  split
  · exact .inl rfl
  · exact runBundle_emits _ _ s

theorem step_emits {s t : State} (h : step s = .next t) : EmitsAtMostOne s t := by
  obtain ⟨-, ⟨k, -, rfl⟩ | ⟨w, -, -, rfl⟩ | ⟨w, i, -, -, hx⟩⟩ := step_cases h
  · exact .inl rfl
  · exact .inl rfl
  · exact exec_emits (s := { s with pc := s.nextPc }) hx

/-- An instruction that is no store leaves memory and the console alone. -/
theorem exec_not_store {i : Instr} {s t : State} (h : exec i s = .next t) (hi : isStore i = false) :
    t.mem = s.mem ∧ t.consoleOut = s.consoleOut := by
  rw [exec_eq] at h
  cases h
  split
  · exact ⟨rfl, rfl⟩
  · exact runBundle_no_write (by simp [bundleOf_memOp_eq_write, hi]) _ s

/-- Settles O52: a cycle reaches the bus through one write at most, and only a store's bundle has it. -/
theorem onlyStoresTouchMemoryOrConsole : Obligations.OnlyStoresTouchMemoryOrConsole :=
  ⟨fun _ _ _ h hi => exec_not_store h hi, fun _ _ _ h => exec_emits h, fun _ _ h => step_emits h⟩

end Sys2Proof.Machine
end

section
/-! The immediates: every bit, the ranges, the classes, and sign extension by a mask (30_encoding.md R97 to
R103). -/

namespace Sys2Proof

open Sys2Proof.Machine

/-! ## Every bit of an immediate (30_encoding.md R97 to R101) -/

/-- Bit `j` of a sign extension to a word is bit `j` of what is extended, up to its sign bit `p`. -/
theorem getLsbD_signExtend_min {p : Nat} (x : BitVec (p + 1)) {j : Nat} (hj : j < 32) :
    (x.signExtend 32).getLsbD j = x.getLsbD (min j p) := by
  refine (getLsbD_extend x true hj).trans ?_
  rw [BitVec.msb_eq_getLsbD_last, Bool.true_and, Nat.add_sub_cancel]
  split <;> congr 1 <;> omega

section Bits
variable (w : Word) {j : Nat}

theorem getLsbD_rawI (hj : j < 12) : (rawI w).getLsbD j = w.getLsbD (20 + j) := by
  rw [rawI, BitVec.getLsbD_extractLsb', decide_eq_true hj, Bool.true_and]

theorem getLsbD_rawS (hj : j < 12) :
    (rawS w).getLsbD j = w.getLsbD (if j < 5 then 7 + j else 20 + j) := by
  rw [rawS, BitVec.getLsbD_append]
  split <;> rw [BitVec.getLsbD_extractLsb', decide_eq_true (by omega), Bool.true_and]
  congr 1; omega

theorem getLsbD_rawB (hj : j < 13) : (rawB w).getLsbD j = (decide (0 < j) &&
    w.getLsbD (if j < 5 then 7 + j else if j < 11 then 20 + j else if j = 11 then 7 else 31)) := by
  unfold rawB
  repeat' (rw [BitVec.getLsbD_append]; split)
  · obtain rfl : j = 0 := by omega
    rfl
  all_goals
    rw [BitVec.getLsbD_extractLsb', decide_eq_true (by omega), decide_eq_true (by omega)]
    congr 2
    split_ifs <;> omega

theorem getLsbD_rawJ (hj : j < 21) : (rawJ w).getLsbD j = (decide (0 < j) &&
    w.getLsbD (if j < 11 then 20 + j else if j = 11 then 20 else if j < 20 then j else 31)) := by
  unfold rawJ
  repeat' (rw [BitVec.getLsbD_append]; split)
  · obtain rfl : j = 0 := by omega
    rfl
  all_goals
    rw [BitVec.getLsbD_extractLsb', decide_eq_true (by omega), decide_eq_true (by omega)]
    congr 2
    split_ifs <;> omega

theorem getLsbD_immI (hj : j < 32) :
    (immI w).getLsbD j = w.getLsbD (if j < 11 then 20 + j else 31) := by
  rw [immI, getLsbD_signExtend_min _ hj, getLsbD_rawI w (by omega)]
  congr 1
  split_ifs <;> omega

theorem getLsbD_immS (hj : j < 32) : (immS w).getLsbD j =
    w.getLsbD (if j < 5 then 7 + j else if j < 11 then 20 + j else 31) := by
  rw [immS, getLsbD_signExtend_min _ hj, getLsbD_rawS w (by omega)]
  congr 1
  split_ifs <;> omega

theorem getLsbD_immB (hj : j < 32) : (immB w).getLsbD j = (decide (0 < j) &&
    w.getLsbD (if j < 5 then 7 + j else if j < 11 then 20 + j else if j = 11 then 7 else 31)) := by
  rw [immB, getLsbD_signExtend_min _ hj, getLsbD_rawB w (by omega)]
  congr 2
  · exact propext (by omega)
  · split_ifs <;> omega

theorem getLsbD_immJ (hj : j < 32) : (immJ w).getLsbD j = (decide (0 < j) &&
    w.getLsbD (if j < 11 then 20 + j else if j = 11 then 20 else if j < 20 then j else 31)) := by
  rw [immJ, getLsbD_signExtend_min _ hj, getLsbD_rawJ w (by omega)]
  congr 2
  · exact propext (by omega)
  · split_ifs <;> omega

theorem getLsbD_immU (hj : j < 32) : (immU w).getLsbD j = (decide (12 ≤ j) && w.getLsbD j) := by
  rw [immU, BitVec.getLsbD_append]
  split
  · rw [decide_eq_false (by omega), Bool.false_and, BitVec.getLsbD_zero]
  · rw [rawU, BitVec.getLsbD_extractLsb', decide_eq_true (by omega), decide_eq_true (by omega)]
    congr 2; omega

theorem immU_eq_and : immU w = w &&& 0xFFFFF000#32 := by
  have hmask : ∀ j < 32, (0xFFFFF000#32).getLsbD j = decide (12 ≤ j) := by decide
  refine BitVec.eq_of_getLsbD_eq fun j hj => ?_
  rw [getLsbD_immU w hj, BitVec.getLsbD_and, hmask j hj, Bool.and_comm]

/-! ## Ranges -/

theorem toInt_signExtend_range {p : Nat} (hp : p < 32) (x : BitVec (p + 1)) :
    -2 ^ p ≤ (x.signExtend 32).toInt ∧ (x.signExtend 32).toInt < 2 ^ p := by
  rw [BitVec.toInt_signExtend_of_le hp]
  exact ⟨x.le_toInt, x.toInt_lt⟩

theorem immI_range : -2048 ≤ (immI w).toInt ∧ (immI w).toInt ≤ 2047 := by
  obtain ⟨hlo, hhi⟩ := toInt_signExtend_range (by decide) (rawI w)
  exact ⟨hlo, Int.lt_add_one_iff.1 hhi⟩

theorem immS_range : -2048 ≤ (immS w).toInt ∧ (immS w).toInt ≤ 2047 := by
  obtain ⟨hlo, hhi⟩ := toInt_signExtend_range (by decide) (rawS w)
  exact ⟨hlo, Int.lt_add_one_iff.1 hhi⟩

/-- A word whose bit 0 is 0 is even as a signed number. -/
theorem toInt_emod_two {x : Word} (h : x.getLsbD 0 = false) : x.toInt % 2 = 0 := by
  have hn : x.toNat % 2 = 0 := by simpa [BitVec.getLsbD] using h
  rw [BitVec.toInt_eq_toNat_cond]
  split <;> omega

theorem immB_range : -4096 ≤ (immB w).toInt ∧ (immB w).toInt ≤ 4094 ∧ (immB w).toInt % 2 = 0 := by
  obtain ⟨hlo, hhi⟩ := toInt_signExtend_range (by decide) (rawB w)
  have heven := toInt_emod_two (getLsbD_immB w (by decide : 0 < 32))
  have hlo : -4096 ≤ (immB w).toInt := hlo
  have hhi : (immB w).toInt < 4096 := hhi
  omega

theorem immJ_range :
    -1048576 ≤ (immJ w).toInt ∧ (immJ w).toInt ≤ 1048574 ∧ (immJ w).toInt % 2 = 0 := by
  obtain ⟨hlo, hhi⟩ := toInt_signExtend_range (by decide) (rawJ w)
  have heven := toInt_emod_two (getLsbD_immJ w (by decide : 0 < 32))
  have hlo : -1048576 ≤ (immJ w).toInt := hlo
  have hhi : (immJ w).toInt < 1048576 := hhi
  omega

/-! ## Sign extension by a mask (R102) -/

/-- All ones above bit `p`. -/
theorem getLsbD_onesAbove : ∀ p < 31, ∀ j < 32,
    (~~~((1#32 <<< (p + 1)) - 1#32)).getLsbD j = decide (p < j) := by
  decide

/-- Sign extension from bit `p` is OR with all ones above bit `p` when that bit is set (R102). -/
theorem signExtend_eq_orMask {p : Nat} (hp : p < 31) (x : BitVec (p + 1)) :
    x.signExtend 32 = x.setWidth 32 |||
      if (x.setWidth 32).getLsbD p then ~~~((1#32 <<< (p + 1)) - 1#32) else 0#32 := by
  refine BitVec.eq_of_getLsbD_eq fun j hj => ?_
  have hsign : (x.setWidth 32).getLsbD p = x.getLsbD p := by
    rw [BitVec.getLsbD_setWidth, decide_eq_true (by omega), Bool.true_and]
  have hraw : (x.setWidth 32).getLsbD j = x.getLsbD j := by
    rw [BitVec.getLsbD_setWidth, decide_eq_true hj, Bool.true_and]
  have hmask : (if x.getLsbD p then ~~~((1#32 <<< (p + 1)) - 1#32) else 0#32).getLsbD j =
      (x.getLsbD p && decide (p < j)) := by
    cases x.getLsbD p with
    | false => exact BitVec.getLsbD_zero
    | true => exact getLsbD_onesAbove p hp j hj
  rw [getLsbD_signExtend_min x hj, BitVec.getLsbD_or, hraw, hsign, hmask]
  obtain hle | hlt := le_or_gt j p
  · rw [min_eq_left hle, decide_eq_false (by omega), Bool.and_false, Bool.or_false]
  · rw [min_eq_right hlt.le, x.getLsbD_of_ge j hlt, decide_eq_true hlt, Bool.and_true, Bool.false_or]

end Bits

/-! ## The classes that use them -/

theorem decodeImmediate_eq (c : OpClass) (w : Word) :
    decodeImmediate c w = if c = .i ∨ c = .iLoad ∨ c = .iJalr then some (immI w)
      else if c = .s then some (immS w) else if c = .uLui ∨ c = .uAuipc then some (immU w)
      else if c = .b then some (immB w) else if c = .jJal then some (immJ w) else none := by
  cases c <;> rfl

/-- Settles O5, from the bits, the ranges and the classes above. -/
theorem immediateBitsISU : Obligations.ImmediateBitsISU := fun w =>
  ⟨fun _ => getLsbD_immI w, fun _ => getLsbD_immS w, fun _ => getLsbD_immU w, immI_range w,
    immS_range w, immU_eq_and w, fun c => decodeImmediate_eq c w⟩

/-- Settles O6: bit 0 of both offsets is 0, so their upper bounds are even too. -/
theorem immediateBitsBJ : Obligations.ImmediateBitsBJ := fun w =>
  ⟨fun _ => getLsbD_immB w, fun _ => getLsbD_immJ w, immB_range w, immJ_range w, rfl, rfl⟩

/-- Settles O7: `signExtend_eq_orMask` at the four sign bits; the examples are evaluated. -/
theorem signExtensionIsOrWithMask : Obligations.SignExtensionIsOrWithMask :=
  ⟨fun w => ⟨signExtend_eq_orMask (by decide) (rawI w), signExtend_eq_orMask (by decide) (rawS w),
    signExtend_eq_orMask (by decide) (rawB w), signExtend_eq_orMask (by decide) (rawJ w)⟩,
    by decide, by decide⟩

end Sys2Proof
end

section
/-! A word that decodes is the word of the instruction it decodes to (30_encoding.md R93 to R114). -/

namespace Sys2Proof

/-! ## Classes and funct3 -/

/-- The opcode of each class (30_encoding.md R94). -/
def OpClass.opcode : OpClass → BitVec 7
  | .r => 0b0110011#7
  | .i => 0b0010011#7
  | .iLoad => 0b0000011#7
  | .s => 0b0100011#7
  | .b => 0b1100011#7
  | .uLui => 0b0110111#7
  | .uAuipc => 0b0010111#7
  | .jJal => 0b1101111#7
  | .iJalr => 0b1100111#7
  | .fence => 0b0001111#7
  | .e => 0b1110011#7

theorem classify_eq_some {op : BitVec 7} {c : OpClass} : classify op = some c ↔ op = c.opcode := by
  constructor
  · intro h
    unfold classify at h
    (repeat' split at h) <;> cases h <;> assumption
  · rintro rfl
    cases c <;> rfl

theorem funct3_cases (f : BitVec 3) : f = 0b000#3 ∨ f = 0b001#3 ∨ f = 0b010#3 ∨ f = 0b011#3 ∨
    f = 0b100#3 ∨ f = 0b101#3 ∨ f = 0b110#3 ∨ f = 0b111#3 := by
  decide +revert

/-! ## A word from its fields, the constant ones named -/

section OfFields
variable {w : Word} {f7 : BitVec 7} {f3 : BitVec 3} {op : BitVec 7}

theorem formR_of_fields (h7 : funct7Field w = f7) (h3 : funct3Field w = f3)
    (ho : opcodeField w = op) : formR f7 (rs2Field w) (rs1Field w) f3 (rdField w) op = w := by
  rw [← h7, ← h3, ← ho, formR_self]

theorem formI_of_fields (h3 : funct3Field w = f3) (ho : opcodeField w = op) :
    formI (rawI w) (rs1Field w) f3 (rdField w) op = w := by
  rw [← h3, ← ho, formI_self]

theorem formI_shift_of_fields (ht : w.extractLsb' 25 7 = f7) (h3 : funct3Field w = f3)
    (ho : opcodeField w = op) :
    formI (f7 ++ w.extractLsb' 20 5) (rs1Field w) f3 (rdField w) op = w := by
  rw [← ht, rawI_split, formI_of_fields h3 ho]

theorem formS_of_fields (h3 : funct3Field w = f3) (ho : opcodeField w = op) :
    formS (rawS w) (rs2Field w) (rs1Field w) f3 op = w := by
  rw [← h3, ← ho, formS_self]

theorem formB_of_fields (h3 : funct3Field w = f3) (ho : opcodeField w = op) :
    formB (rawB w) (rs2Field w) (rs1Field w) f3 op = w := by
  rw [← h3, ← ho, formB_self]

theorem formU_of_opcode (ho : opcodeField w = op) : formU (rawU w) (rdField w) op = w := by
  rw [← ho, formU_self]

theorem formJ_of_opcode (ho : opcodeField w = op) : formJ (rawJ w) (rdField w) op = w := by
  rw [← ho, formJ_self]

theorem fenceWord_of_fields (h3 : funct3Field w = f3) (ho : opcodeField w = op) :
    (w.extractLsb' 15 17 ++ f3 ++ w.extractLsb' 7 5 ++ op : Word) = w := by
  rw [← h3, ← ho, fenceWord_self]

end OfFields

/-! ## No bit of a decodable word is lost -/

/-- `i` is well-formed and `w` is its word. -/
def Spells (w : Word) (i : Instr) : Prop := encode i = w ∧ i.wf = true

section Spelled
variable {w : Word} {i : Instr}

theorem spells_of_decodeR (ho : opcodeField w = OpClass.r.opcode) (h : decodeR w = some i) :
    Spells w i := by
  obtain h3 | h3 | h3 | h3 | h3 | h3 | h3 | h3 := funct3_cases (funct3Field w)
  all_goals
    simp only [decodeR, h3, BitVec.reduceEq, if_true, if_false] at h
    (repeat' split at h) <;> cases h <;> exact ⟨formR_of_fields ‹_› h3 ho, rfl⟩

theorem spells_of_decodeI (ho : opcodeField w = OpClass.i.opcode) (h : decodeI w = some i) :
    Spells w i := by
  obtain h3 | h3 | h3 | h3 | h3 | h3 | h3 | h3 := funct3_cases (funct3Field w)
  all_goals simp only [decodeI, h3, BitVec.reduceEq, if_true, if_false] at h
  case inr.inl | inr.inr.inr.inr.inr.inl =>
    (repeat' split at h) <;> cases h <;> exact ⟨formI_shift_of_fields ‹_› h3 ho, rfl⟩
  all_goals
    cases h
    exact ⟨formI_of_fields h3 ho, rfl⟩

theorem spells_of_decodeLoad (ho : opcodeField w = OpClass.iLoad.opcode)
    (h : decodeLoad w = some i) : Spells w i := by
  simp only [decodeLoad] at h
  split_ifs at h <;> cases h <;> exact ⟨formI_of_fields ‹_› ho, rfl⟩

theorem spells_of_decodeStore (ho : opcodeField w = OpClass.s.opcode)
    (h : decodeStore w = some i) : Spells w i := by
  simp only [decodeStore] at h
  split_ifs at h <;> cases h <;> exact ⟨formS_of_fields ‹_› ho, rfl⟩

theorem spells_of_decodeBranch (ho : opcodeField w = OpClass.b.opcode)
    (h : decodeBranch w = some i) : Spells w i := by
  obtain ⟨-, -, -, -, heven⟩ := rawB_parts w
  simp only [decodeBranch] at h
  split_ifs at h <;> cases h <;> exact ⟨formB_of_fields ‹_› ho, heven⟩

theorem spells_of_decodeSystem (h : decodeSystem w = some i) : Spells w i := by
  unfold decodeSystem at h
  (repeat' split at h) <;> cases h <;> exact ⟨Eq.symm ‹_›, rfl⟩

/-- A word that decodes is the word of the well-formed instruction it decodes to. -/
theorem spells_of_decode (h : decode w = some i) : Spells w i := by
  unfold decode at h
  cases hc : classify (opcodeField w) with
  | none => simp [hc] at h
  | some c =>
    have ho := classify_eq_some.1 hc
    rw [hc] at h
    cases c with
    | r => exact spells_of_decodeR ho h
    | i => exact spells_of_decodeI ho h
    | iLoad => exact spells_of_decodeLoad ho h
    | s => exact spells_of_decodeStore ho h
    | b => exact spells_of_decodeBranch ho h
    | uLui => cases h; exact ⟨formU_of_opcode ho, rfl⟩
    | uAuipc => cases h; exact ⟨formU_of_opcode ho, rfl⟩
    | jJal =>
      obtain ⟨-, -, -, -, heven⟩ := rawJ_parts w
      cases h
      exact ⟨formJ_of_opcode ho, heven⟩
    | iJalr =>
      obtain ⟨h3, h⟩ := Option.ite_none_right_eq_some.1 h
      cases h
      exact ⟨formI_of_fields h3 ho, rfl⟩
    | fence =>
      obtain ⟨h3, h⟩ := Option.ite_none_right_eq_some.1 h
      cases h
      exact ⟨fenceWord_of_fields h3 ho, rfl⟩
    | e => exact spells_of_decodeSystem h

end Spelled

/-- Settles O3: class by class, a word is the format of its own fields. -/
theorem encodeOfDecodeGivesWord : Obligations.EncodeOfDecodeGivesWord :=
  fun _ _ h => spells_of_decode h

end Sys2Proof
end

section
/-! The decoder block of 40_datapath_units.md R148 as the instruction decoder and the instruction's bundle. -/

namespace Sys2Proof.Machine

/-! ## The decoder block is the decoder, and then the instruction's bundle -/

/-- The bundle of an instruction on a machine with this `P_SLT`, if the instruction exists there. -/
def bundleUnder (p : SltParam) (i : Instr) : Option ControlBundle :=
  if isSlt i = true ∧ p = .absent then none else some (bundleOf i)

theorem bundleUnder_eq_none {p : SltParam} {i : Instr} :
    bundleUnder p i = none ↔ isSlt i = true ∧ p = .absent := by
  simp [bundleUnder]

theorem isSome_bundleUnder {p : SltParam} {i : Instr} :
    (bundleUnder p i).isSome = true ↔ (p = .present ∨ isSlt i = false) := by
  unfold bundleUnder
  cases p <;> simp

/-- The decoder block's bundle for a word of class `c` (40_datapath_units.md R150): the class's bundle of
the word's operands. -/
def blockBundle (p : SltParam) (w : Word) : OpClass → Option ControlBundle
  | .r => (aluOpR p (some (funct3Field w)) (some (funct7Field w))).map fun op =>
      bundleR op (rdField w) (rs1Field w) (rs2Field w)
  | .i => (aluOpI p (some (funct3Field w)) (w.extractLsb' 25 7)).map fun op =>
      bundleI op (rdField w) (rs1Field w) (immI w)
  | .iLoad => (loadKind (some (funct3Field w))).map fun k =>
      bundleLoad k.1 k.2 (rdField w) (rs1Field w) (rawI w)
  | .s => (storeKind (some (funct3Field w))).map fun n =>
      bundleStore n (rs1Field w) (rs2Field w) (rawS w)
  | .b => (branchKind (some (funct3Field w))).map fun k =>
      bundleBranch k.1 k.2 (rs1Field w) (rs2Field w) (rawB w)
  | .uLui => some (bundleU .none .passB (rdField w) (rawU w))
  | .uAuipc => some (bundleU .pc .add (rdField w) (rawU w))
  | .jJal => some (bundleJump .pc (rdField w) none (immJ w))
  | .iJalr =>
    if funct3Field w = 0b000#3 then some (bundleJump .reg (rdField w) (some (rs1Field w)) (immI w))
    else none
  | .fence => if funct3Field w = 0b000#3 then some (bundleSys .none) else none
  | .e =>
    if w = 0x00000073#32 then some (bundleSys .ecall)
    else if w = 0x00100073#32 then some (bundleSys .ebreak)
    else none

theorem decodeBundle_of_classify {w : Word} {c : OpClass} (hc : classify (opcodeField w) = some c)
    (p : SltParam) : decodeBundle p w = blockBundle p w c := by
  unfold decodeBundle extractFields
  rw [hc]
  cases c <;>
    simp [classBundle, emptyBundle, writeEnable, OpClass.fields, decodeImmediate, blockBundle,
      bundleR, bundleI, bundleLoad, bundleStore, bundleBranch, bundleU, bundleJump, bundleSys, immI,
      immS, immB, immU]

section Classes
variable (p : SltParam) (w : Word)

theorem blockBundle_r : blockBundle p w .r = (decodeR w).bind (bundleUnder p) := by
  obtain h3 | h3 | h3 | h3 | h3 | h3 | h3 | h3 := funct3_cases (funct3Field w)
  all_goals
    by_cases h7 : funct7Field w = 0b0000000#7
    · cases p <;> simp [blockBundle, aluOpR, decodeR, h3, h7, bundleUnder, isSlt, bundleOf]
    by_cases h7' : funct7Field w = 0b0100000#7 <;>
      simp [blockBundle, aluOpR, decodeR, h3, h7, h7', bundleUnder, isSlt, bundleOf]

/-- The immediate of a shift instruction is its upper 7 bits above the shift amount (R107). -/
theorem immI_shift :
    immI w = (w.extractLsb' 25 7 ++ w.extractLsb' 20 5 : BitVec 12).signExtend 32 := by
  rw [rawI_split, immI]

theorem blockBundle_i : blockBundle p w .i = (decodeI w).bind (bundleUnder p) := by
  obtain h3 | h3 | h3 | h3 | h3 | h3 | h3 | h3 := funct3_cases (funct3Field w)
  case inr.inl | inr.inr.inr.inr.inr.inl =>
    by_cases ht : w.extractLsb' 25 7 = 0b0000000#7
    · simp [blockBundle, aluOpI, decodeI, h3, immI_shift, ht, bundleUnder, isSlt, bundleOf]
    by_cases ht' : w.extractLsb' 25 7 = 0b0100000#7 <;>
      simp [blockBundle, aluOpI, decodeI, h3, immI_shift, ht, ht', bundleUnder, isSlt, bundleOf]
  all_goals
    cases p <;> simp [blockBundle, aluOpI, decodeI, h3, immI, bundleUnder, isSlt, bundleOf]

theorem blockBundle_iLoad : blockBundle p w .iLoad = (decodeLoad w).bind (bundleUnder p) := by
  obtain h3 | h3 | h3 | h3 | h3 | h3 | h3 | h3 := funct3_cases (funct3Field w)
  all_goals simp [blockBundle, loadKind, decodeLoad, h3, bundleUnder, isSlt, bundleOf]

theorem blockBundle_s : blockBundle p w .s = (decodeStore w).bind (bundleUnder p) := by
  obtain h3 | h3 | h3 | h3 | h3 | h3 | h3 | h3 := funct3_cases (funct3Field w)
  all_goals simp [blockBundle, storeKind, decodeStore, h3, bundleUnder, isSlt, bundleOf]

theorem blockBundle_b : blockBundle p w .b = (decodeBranch w).bind (bundleUnder p) := by
  obtain h3 | h3 | h3 | h3 | h3 | h3 | h3 | h3 := funct3_cases (funct3Field w)
  all_goals simp [blockBundle, branchKind, decodeBranch, h3, bundleUnder, isSlt, bundleOf]

theorem blockBundle_e : blockBundle p w .e = (decodeSystem w).bind (bundleUnder p) := by
  unfold blockBundle decodeSystem
  split_ifs <;> rfl

end Classes

/-- The decoder block is the instruction decoder, then the instruction's own bundle where `P_SLT` admits
the instruction (log entry 10). -/
theorem decodeBundle_eq (p : SltParam) (w : Word) :
    decodeBundle p w = (decode w).bind (bundleUnder p) := by
  cases hc : classify (opcodeField w) with
  | none => simp [decodeBundle, extractFields, decode, hc]
  | some c =>
    rw [decodeBundle_of_classify hc]
    unfold decode
    rw [hc]
    cases c with
    | r => exact blockBundle_r p w
    | i => exact blockBundle_i p w
    | iLoad => exact blockBundle_iLoad p w
    | s => exact blockBundle_s p w
    | b => exact blockBundle_b p w
    | uLui | uAuipc | jJal => rfl
    | iJalr | fence =>
      dsimp only [blockBundle]
      split <;> rfl
    | e => exact blockBundle_e p w

theorem isSome_decodeBundle {p : SltParam} {w : Word} : (decodeBundle p w).isSome = true ↔
    ∃ i, decode w = some i ∧ (p = .present ∨ isSlt i = false) := by
  rw [decodeBundle_eq]
  cases decode w <;> simp [isSome_bundleUnder]

theorem decodeBundle_eq_none {p : SltParam} {w : Word} : decodeBundle p w = none ↔
    decode w = none ∨ ∃ i, decode w = some i ∧ isSlt i = true ∧ p = .absent := by
  rw [decodeBundle_eq]
  cases decode w <;> simp [bundleUnder_eq_none]

end Sys2Proof.Machine
end

section
/-! Which words decode, as function fields and as rows of the opcode table (30_encoding.md R104 to R114,
R121). -/

namespace Sys2Proof

/-! ## Which words decode -/

/-- Whether a class other than E accepts the function fields (30_encoding.md R104 to R112). -/
def OpClass.accepts : OpClass → BitVec 3 → BitVec 7 → Bool
  | .r, f3, f7 => f7 = 0b0000000#7 ∨ (f7 = 0b0100000#7 ∧ (f3 = 0b000#3 ∨ f3 = 0b101#3))
  | .i, f3, f7 =>
    (f3 = 0b001#3 → f7 = 0b0000000#7) ∧ (f3 = 0b101#3 → f7 = 0b0000000#7 ∨ f7 = 0b0100000#7)
  | .iLoad, f3, _ => f3 ≠ 0b011#3 ∧ f3 ≠ 0b110#3 ∧ f3 ≠ 0b111#3
  | .s, f3, _ => f3 = 0b000#3 ∨ f3 = 0b001#3 ∨ f3 = 0b010#3
  | .b, f3, _ => f3 ≠ 0b010#3 ∧ f3 ≠ 0b011#3
  | .uLui, _, _ | .uAuipc, _, _ | .jJal, _, _ => true
  | .iJalr, f3, _ | .fence, f3, _ => f3 = 0b000#3
  | .e, _, _ => false

section Accepts
variable (w : Word)

theorem isSome_decodeR :
    (decodeR w).isSome = OpClass.r.accepts (funct3Field w) (funct7Field w) := by
  obtain h3 | h3 | h3 | h3 | h3 | h3 | h3 | h3 := funct3_cases (funct3Field w)
  all_goals
    simp only [decodeR, h3, BitVec.reduceEq, if_true, if_false, OpClass.accepts]
    split_ifs <;> simp_all

theorem isSome_decodeI :
    (decodeI w).isSome = OpClass.i.accepts (funct3Field w) (funct7Field w) := by
  have h7 : w.extractLsb' 25 7 = funct7Field w := rfl
  obtain h3 | h3 | h3 | h3 | h3 | h3 | h3 | h3 := funct3_cases (funct3Field w)
  case inr.inl =>
    by_cases h : funct7Field w = 0b0000000#7 <;> simp [decodeI, OpClass.accepts, h3, h7, h]
  case inr.inr.inr.inr.inr.inl =>
    by_cases h : funct7Field w = 0b0000000#7
    · simp [decodeI, OpClass.accepts, h3, h7, h]
    by_cases h' : funct7Field w = 0b0100000#7 <;> simp [decodeI, OpClass.accepts, h3, h7, h, h']
  all_goals simp [decodeI, OpClass.accepts, h3]

theorem isSome_decodeLoad :
    (decodeLoad w).isSome = OpClass.iLoad.accepts (funct3Field w) (funct7Field w) := by
  obtain h3 | h3 | h3 | h3 | h3 | h3 | h3 | h3 := funct3_cases (funct3Field w)
  all_goals simp [decodeLoad, OpClass.accepts, h3]

theorem isSome_decodeStore :
    (decodeStore w).isSome = OpClass.s.accepts (funct3Field w) (funct7Field w) := by
  obtain h3 | h3 | h3 | h3 | h3 | h3 | h3 | h3 := funct3_cases (funct3Field w)
  all_goals simp [decodeStore, OpClass.accepts, h3]

theorem isSome_decodeBranch :
    (decodeBranch w).isSome = OpClass.b.accepts (funct3Field w) (funct7Field w) := by
  obtain h3 | h3 | h3 | h3 | h3 | h3 | h3 | h3 := funct3_cases (funct3Field w)
  all_goals simp [decodeBranch, OpClass.accepts, h3]

end Accepts

/-- A word of a class other than E decodes exactly when the class accepts its function fields. -/
theorem isSome_decode {w : Word} {c : OpClass} (hc : classify (opcodeField w) = some c)
    (he : c ≠ .e) : (decode w).isSome = c.accepts (funct3Field w) (funct7Field w) := by
  unfold decode
  rw [hc]
  cases c with
  | r => exact isSome_decodeR w
  | i => exact isSome_decodeI w
  | iLoad => exact isSome_decodeLoad w
  | s => exact isSome_decodeStore w
  | b => exact isSome_decodeBranch w
  | uLui | uAuipc | jJal => rfl
  | iJalr | fence =>
    dsimp only [OpClass.accepts]
    split <;> simp_all
  | e => exact absurd rfl he

/-! ## The rows of the opcode table -/

/-- A word spells at most one row: two rows that agree where both masks look are one row. -/
theorem row_eq_of_agree : ∀ row ∈ opcodeTable, ∀ row' ∈ opcodeTable,
    row.pattern &&& row'.mask = row'.pattern &&& row.mask → row = row' := by
  decide

theorem row_unique {w : Word} {row row' : TableRow} (hr : row ∈ opcodeTable)
    (hr' : row' ∈ opcodeTable) (h : w &&& row.mask = row.pattern)
    (h' : w &&& row'.mask = row'.pattern) : row = row' := by
  refine row_eq_of_agree row hr row' hr' ?_
  rw [← h, ← h', BitVec.and_assoc, BitVec.and_assoc, BitVec.and_comm row.mask]

/-- A row looks at the opcode, and at each function field whole or not at all. -/
theorem fields_of_mask : ∀ row ∈ opcodeTable, opcodeField row.mask = BitVec.allOnes 7 ∧
    (funct3Field row.mask = 0#3 ∨ funct3Field row.mask = BitVec.allOnes 3) ∧
    (funct7Field row.mask = 0#7 ∨ funct7Field row.mask = BitVec.allOnes 7) := by
  decide

/-- A row that does not look at the whole word accepts its function fields, whatever stands in those it
does not look at. -/
theorem accepts_of_row (f3 : BitVec 3) (f7 : BitVec 7) : opcodeTable.all (fun row =>
    decide (row.mask = BitVec.allOnes 32) || (classify (opcodeField row.pattern)).any fun c =>
      c.accepts (if funct3Field row.mask = 0#3 then f3 else funct3Field row.pattern)
        (if funct7Field row.mask = 0#7 then f7 else funct7Field row.pattern)) = true :=
  rfl

theorem isSome_decode_of_exactRow : ∀ row ∈ opcodeTable, row.mask = BitVec.allOnes 32 →
    (decode row.pattern).isSome = true := by
  decide

/-- A masked field is the pattern's where the mask looks. -/
theorem eq_ite_of_and_eq {n : Nat} {x m p : BitVec n} (hm : m = 0#n ∨ m = BitVec.allOnes n)
    (h : x &&& m = p) : x = if m = 0#n then x else p := by
  split
  · rfl
  · next h0 => rw [← h, hm.resolve_left h0, BitVec.and_allOnes]

theorem isSome_decode_of_row {w : Word} {row : TableRow} (hr : row ∈ opcodeTable)
    (h : w &&& row.mask = row.pattern) : (decode w).isSome = true := by
  obtain ⟨hmo, hm3, hm7⟩ := fields_of_mask row hr
  have ho : opcodeField w &&& opcodeField row.mask = opcodeField row.pattern :=
    BitVec.extractLsb'_and.symm.trans (congrArg opcodeField h)
  rw [hmo, BitVec.and_allOnes] at ho
  have h3 := eq_ite_of_and_eq (x := funct3Field w) hm3
    (BitVec.extractLsb'_and.symm.trans (congrArg funct3Field h))
  have h7 := eq_ite_of_and_eq (x := funct7Field w) hm7
    (BitVec.extractLsb'_and.symm.trans (congrArg funct7Field h))
  have hrow := List.all_eq_true.1 (accepts_of_row (funct3Field w) (funct7Field w)) row hr
  rw [← h3, ← h7, ← ho, Bool.or_eq_true, decide_eq_true_eq, Option.any_eq_true] at hrow
  obtain hexact | ⟨c, hc, hacc⟩ := hrow
  · have hw : w = row.pattern := by rw [← h, hexact, BitVec.and_allOnes]
    exact hw ▸ isSome_decode_of_exactRow row hr hexact
  · rw [isSome_decode hc (by rintro rfl; cases hacc), hacc]

end Sys2Proof
end

section
/-! The decoder block has a bundle for the words of the table's rows, and a step rejects every other word
(30_encoding.md R121). -/

namespace Sys2Proof.Machine

open Sys2Proof.Claims

/-! ## The decodable words are those of the rows -/

/-- Every instruction has a row of its own, which its word spells. -/
theorem ownRow (i : Instr) : Laws.TableRow.Statement i := by
  cases i with
  | add => exact Laws.TableRow.add ..
  | sub => exact Laws.TableRow.sub ..
  | sll => exact Laws.TableRow.sll ..
  | slt => exact Laws.TableRow.slt ..
  | sltu => exact Laws.TableRow.sltu ..
  | xor => exact Laws.TableRow.xor ..
  | srl => exact Laws.TableRow.srl ..
  | sra => exact Laws.TableRow.sra ..
  | or => exact Laws.TableRow.or ..
  | and => exact Laws.TableRow.and ..
  | addi => exact Laws.TableRow.addi ..
  | slti => exact Laws.TableRow.slti ..
  | sltiu => exact Laws.TableRow.sltiu ..
  | xori => exact Laws.TableRow.xori ..
  | ori => exact Laws.TableRow.ori ..
  | andi => exact Laws.TableRow.andi ..
  | slli => exact Laws.TableRow.slli ..
  | srli => exact Laws.TableRow.srli ..
  | srai => exact Laws.TableRow.srai ..
  | lui => exact Laws.TableRow.lui ..
  | auipc => exact Laws.TableRow.auipc ..
  | jal => exact Laws.TableRow.jal ..
  | jalr => exact Laws.TableRow.jalr ..
  | beq => exact Laws.TableRow.beq ..
  | bne => exact Laws.TableRow.bne ..
  | blt => exact Laws.TableRow.blt ..
  | bge => exact Laws.TableRow.bge ..
  | bltu => exact Laws.TableRow.bltu ..
  | bgeu => exact Laws.TableRow.bgeu ..
  | lb => exact Laws.TableRow.lb ..
  | lh => exact Laws.TableRow.lh ..
  | lw => exact Laws.TableRow.lw ..
  | lbu => exact Laws.TableRow.lbu ..
  | lhu => exact Laws.TableRow.lhu ..
  | sb => exact Laws.TableRow.sb ..
  | sh => exact Laws.TableRow.sh ..
  | sw => exact Laws.TableRow.sw ..
  | fence => exact Laws.TableRow.fence ..
  | ecall => exact Laws.TableRow.ecall
  | ebreak => exact Laws.TableRow.ebreak

/-- A word that decodes spells the row of its instruction. -/
theorem exists_row_of_decode {w : Word} {i : Instr} (h : decode w = some i) :
    ∃ row ∈ opcodeTable, row.mnemonic = i.mnemonic ∧ w &&& row.mask = row.pattern := by
  obtain ⟨rfl, -⟩ := spells_of_decode h
  exact ownRow i

theorem mnemonic_mem_slt {i : Instr} :
    i.mnemonic ∈ ["SLT", "SLTU", "SLTI", "SLTIU"] ↔ isSlt i = true := by
  cases i <;> simp [Instr.mnemonic, isSlt]

theorem mnemonic_notMem_slt {i : Instr} :
    i.mnemonic ∉ ["SLT", "SLTU", "SLTI", "SLTIU"] ↔ isSlt i = false := by
  rw [mnemonic_mem_slt, Bool.not_eq_true]

/-- The decoder block has a bundle for exactly the words of the rows that exist on the machine. -/
theorem isSome_decodeBundle_iff_row {p : SltParam} {w : Word} : (decodeBundle p w).isSome = true ↔
    ∃ row ∈ opcodeTable, w &&& row.mask = row.pattern ∧
      (p = .present ∨ row.mnemonic ∉ ["SLT", "SLTU", "SLTI", "SLTIU"]) := by
  rw [isSome_decodeBundle]
  constructor
  · rintro ⟨i, hi, hp⟩
    obtain ⟨row, hr, hname, hw⟩ := exists_row_of_decode hi
    exact ⟨row, hr, hw, by rwa [hname, mnemonic_notMem_slt]⟩
  · rintro ⟨row, hr, hw, hp⟩
    obtain ⟨i, hi⟩ := Option.isSome_iff_exists.1 (isSome_decode_of_row hr hw)
    obtain ⟨row', hr', hname, hw'⟩ := exists_row_of_decode hi
    obtain rfl := row_unique hr hr' hw hw'
    exact ⟨i, hi, by rwa [hname, mnemonic_notMem_slt] at hp⟩

/-- A fetched word without a bundle raises `InvalidArgument` in Decode (60_exceptions.md R342). -/
theorem step_of_no_bundle {s : State} {w : Word} (hr : s.isRunning = true)
    (hb : s.busRead s.nextPc .word false = .ok w) (hn : decodeBundle s.cfg.slt w = none) :
    step s = .next (State.decodeFault { s with pc := s.nextPc } .invalidArgument w none) := by
  obtain hd | ⟨i, hd, hslt, habs⟩ := decodeBundle_eq_none.1 hn
  · exact step_of_illegal hr hb hd
  · obtain ⟨rfl, -⟩ := spells_of_decode hd
    exact (step_of_exec hr hb hd).trans ((exec_eq _ _).trans (by rw [if_pos ⟨hslt, habs⟩]))

/-- Settles O4: a word that decodes spells its instruction's row, a word that spells a row decodes, and
the decoder block is the decoder but for `P_SLT`. -/
theorem decodableWordsAreTheTableRows : Obligations.DecodableWordsAreTheTableRows :=
  ⟨rfl, fun _ _ => isSome_decodeBundle_iff_row, fun _ _ h => exists_row_of_decode h,
    fun _ _ hr _ hr' h h' => row_unique hr hr' h h', fun _ _ hr hb hn => step_of_no_bundle hr hb hn⟩

end Sys2Proof.Machine
end

section
/-! LUI and ADDI, and the expansion of `li` (30_encoding.md R120). -/

namespace Sys2Proof.Machine

open Sys2Proof.Claims

/-! ## Instructions that write an ALU result and go on -/

theorem readable_iff {s : State} {r : RegIdx} : Readable s r ↔ s.regUnreadable r = false :=
  regUnreadable_eq_false.symm

/-- The register write of a class with a destination, whose enable is rd ≠ 0 (R151). -/
theorem regWrite_eq_withDest (s : State) (rd : RegIdx) (v : Word) :
    s.regWrite (some rd) v (decide (rd ≠ 0)) = withDest s rd v := by
  by_cases h : rd = 0
  · simp [h, withDest]
  · rw [decide_eq_true h, regWrite_some s v h, withDest, if_neg h]

@[simp] theorem withDest_power (s : State) (rd : RegIdx) (v : Word) :
    (withDest s rd v).power = s.power := by unfold withDest; split <;> rfl

@[simp] theorem aluWrites_power (s : State) (rd : RegIdx) (v : Word) :
    (aluWrites s rd v).power = s.power := withDest_power ..

/-- `t` is `s` with `v` loaded into rd (0 for x0): every other register and the status are as before. -/
def LoadedInto (s t : State) (rd : RegIdx) (v : Word) : Prop :=
  t.regValue rd = (if rd = 0 then 0#32 else v) ∧ t.status = s.status ∧
    ∀ q : RegIdx, q ≠ rd → t.regValue q = s.regValue q

theorem LoadedInto.trans {s t u : State} {rd : RegIdx} {v v' : Word} (h : LoadedInto s t rd v)
    (h' : LoadedInto t u rd v') : LoadedInto s u rd v' := by
  obtain ⟨-, hst, hother⟩ := h
  obtain ⟨hrd', hst', hother'⟩ := h'
  exact ⟨hrd', hst'.trans hst, fun q hq => (hother' q hq).trans (hother q hq)⟩

/-- What is loaded into x0 does not matter. -/
theorem LoadedInto.of_eq {s t : State} {rd : RegIdx} {v v' : Word} (h : LoadedInto s t rd v)
    (hv : rd ≠ 0 → v = v') : LoadedInto s t rd v' := by
  obtain ⟨hrd, hrest⟩ := h
  refine ⟨hrd.trans ?_, hrest⟩
  split
  · rfl
  · exact hv ‹_›

/-- Writing an ALU result loads it. -/
theorem loadedInto_aluWrites (s : State) (rd : RegIdx) (v : Word) :
    LoadedInto s (aluWrites s rd v) rd v := by
  by_cases h0 : rd = 0
  · subst h0
    exact ⟨regValue_zero _, rfl, fun _ _ => rfl⟩
  · rw [aluWrites, ← regWrite_eq_withDest, decide_eq_true h0]
    refine ⟨?_, regWrite_status .., fun q hq => ?_⟩
    · rw [regValue_regWrite _ h0, if_pos rfl, if_neg h0]
    · exact (regValue_regWrite _ h0 q v).trans (if_neg hq)

/-- A destination can be read once it is written. -/
theorem readable_aluWrites (s : State) (rd : RegIdx) (v : Word) : Readable (aluWrites s rd v) rd := by
  by_cases h0 : rd = 0
  · exact .inl h0
  · refine .inr (.inl ?_)
    rw [aluWrites, withDest, if_neg h0]
    exact getElem_setReg_same ..

/-- A cycle whose bundle writes the ALU result to rd and goes on (R200, R230, R240). -/
theorem runBundle_alu {b : ControlBundle} {s : State} {rd : RegIdx} {v1 v2 : Word} (w : Word)
    (hs : b.sys = .none) (hm : b.memOp = .none) (hc : b.brCond = .none) (hpc : b.pcSel = .pc4)
    (hwb : b.wbSel = .alu) (hrd : b.rd = some rd) (hwe : b.regWe = decide (rd ≠ 0))
    (hp : s.power = true) (h1 : s.regRead b.rs1 = .ok v1) (h2 : s.regRead b.rs2 = .ok v2) :
    runBundle w b s =
      aluWrites s rd (aluResult b.aluOp (operandA b.aSel v1 s.pc) (operandB b.bSel v2 b.imm)) := by
  have hex : executeStage b v1 v2 s =
      goOn s (aluResult b.aluOp (operandA b.aSel v1 s.pc) (operandB b.bSel v2 b.imm)) := by
    simp only [executeStage, setBranchComp_none hc, hpc, goOn]; rfl
  rw [runBundle_register w hs hm h1 h2, writebackStage, hrd, hwe, hwb, regWrite_eq_withDest, hex]
  exact endOfCycle_running ((withDest_power ..).trans hp)

/-- LUI writes its immediate, in place above 12 zeros (R240). -/
theorem exec_lui {s : State} (hp : s.power = true) (rd : RegIdx) (imm : BitVec 20) :
    exec (.lui rd imm) s = .next (aluWrites s rd (imm ++ 0#12)) := by
  rw [exec_runs (by simp [isSlt])]
  exact congrArg _ (runBundle_alu (b := bundleU .none .passB rd imm) _ rfl rfl rfl rfl rfl rfl rfl hp
    rfl rfl)

/-- ADDI adds its sign-extended immediate to x[rs1] (R231). -/
theorem exec_addi {s : State} (hp : s.power = true) (rd : RegIdx) {rs1 : RegIdx}
    (hr : Readable s rs1) (imm : BitVec 12) :
    exec (.addi rd rs1 imm) s = .next (aluWrites s rd (s.regValue rs1 + imm.signExtend 32)) := by
  rw [exec_runs (by simp [isSlt])]
  exact congrArg _ (runBundle_alu (b := bundleI .add rd rs1 (imm.signExtend 32)) _ rfl rfl rfl rfl rfl
    rfl rfl hp (regRead_ok (readable_iff.1 hr)) rfl)

/-! ## The expansion of `li` (30_encoding.md R120) -/

/-- The 0x800 that `hi20` adds makes up for the sign of the low 12 bits. -/
theorem hi20_add_lo12 (v : Word) : (hi20 v ++ 0#12 : Word) + (lo12 v).signExtend 32 = v := by
  have hhi : (hi20 v ++ 0#12 : Word).toNat = (v.toNat + 2048) % 4294967296 / 4096 * 4096 := by
    refine (BitVec.toNat_append ..).trans ?_
    rw [BitVec.toNat_zero, Nat.or_zero, Nat.shiftLeft_eq, hi20, BitVec.extractLsb'_toNat,
      Nat.shiftRight_eq_div_pow, BitVec.toNat_add]
    change (v.toNat + 2048) % 4294967296 / 4096 % 1048576 * 4096 = _
    omega
  have hlo : ((lo12 v).signExtend 32).toNat =
      v.toNat % 4096 + if 2048 ≤ v.toNat % 4096 then 4294963200 else 0 := by
    have hmod : (lo12 v).toNat = v.toNat % 4096 := by simp [lo12]
    rw [BitVec.toNat_signExtend, BitVec.toNat_setWidth, BitVec.msb_eq_decide, hmod,
      Nat.mod_eq_of_lt (by omega)]
    simp
  refine BitVec.eq_of_toNat_eq ?_
  rw [BitVec.toNat_add, hhi, hlo]
  split <;> omega

theorem runList_cons {i : Instr} {s t : State} (h : exec i { s with pc := s.nextPc } = .next t)
    (is : List Instr) : runList (i :: is) s = runList is t := by
  simp only [runList, h]

/-- The one instruction of `li` for a value that is its own low 12 bits, sign-extended. -/
theorem loadedInto_li_short (rd : RegIdx) {v : Word} {s : State} (hp : s.power = true)
    (hv : (lo12 v).signExtend 32 = v) :
    ∃ t, runList [.addi rd 0 (lo12 v)] s = some t ∧ LoadedInto s t rd v := by
  have hadd := exec_addi (s := { s with pc := s.nextPc }) hp rd (.inl rfl) (lo12 v)
  rw [regValue_zero, BitVec.zero_add, hv] at hadd
  exact ⟨_, runList_cons hadd [], loadedInto_aluWrites { s with pc := s.nextPc } rd v⟩

/-- The two instructions of `li`: the second reads what the first has loaded. -/
theorem loadedInto_li_long (rd : RegIdx) (v : Word) {s : State} (hp : s.power = true) :
    ∃ t, runList [.lui rd (hi20 v), .addi rd rd (lo12 v)] s = some t ∧ LoadedInto s t rd v := by
  have hlui := exec_lui (s := { s with pc := s.nextPc }) hp rd (hi20 v)
  have hhi := loadedInto_aluWrites { s with pc := s.nextPc } rd (hi20 v ++ 0#12)
  have hpow := (aluWrites_power { s with pc := s.nextPc } rd (hi20 v ++ 0#12)).trans hp
  have hread := readable_aluWrites { s with pc := s.nextPc } rd (hi20 v ++ 0#12)
  generalize aluWrites { s with pc := s.nextPc } rd (hi20 v ++ 0#12) = t at *
  have hadd := exec_addi (s := { t with pc := t.nextPc }) hpow rd hread (lo12 v)
  refine ⟨_, (runList_cons hlui _).trans (runList_cons hadd []),
    (hhi.trans (loadedInto_aluWrites { t with pc := t.nextPc } rd _)).of_eq fun h0 => ?_⟩
  obtain ⟨hval, -⟩ := hhi
  have hval' : State.regValue { t with pc := t.nextPc } rd = hi20 v ++ 0#12 := hval.trans (if_neg h0)
  rw [hval', hi20_add_lo12]

/-- Settles O57, in the two cases of the expansion. -/
theorem loadImmediateExpansion : Obligations.LoadImmediateExpansion := by
  intro rd v s hp
  unfold Pseudo.expand
  dsimp only
  split
  · exact loadedInto_li_short rd hp ‹_›
  · exact loadedInto_li_long rd v hp

end Sys2Proof.Machine
end

section
/-! The ALU on integers, its overflow output, the branch comparator, and what the register file answers and
keeps; the decoder block and the meanings (40_datapath_units.md R133 to R151, R157). -/

namespace Sys2Proof.Machine

open Sys2Proof.Claims

/-! ## The shifts -/

theorem shiftAmount_eq (b : Word) : shiftAmount b = b.toNat % 32 := by
  simp [shiftAmount]

theorem toNat_aluResult_sll (a b : Word) :
    (aluResult .sll a b).toNat = a.toNat * 2 ^ (b.toNat % 32) % 2 ^ 32 := by
  simp [aluResult, shiftAmount_eq, Nat.shiftLeft_eq]

theorem toNat_aluResult_srl (a b : Word) :
    (aluResult .srl a b).toNat = a.toNat / 2 ^ (b.toNat % 32) := by
  simp [aluResult, shiftAmount_eq, Nat.shiftRight_eq_div_pow]

theorem toInt_aluResult_sra (a b : Word) :
    (aluResult .sra a b).toInt = a.toInt / 2 ^ (b.toNat % 32) := by
  simp [aluResult, shiftAmount_eq, BitVec.toInt_sshiftRight, Int.shiftRight_eq_div_pow]

theorem toNat_aluResult_sub (a b : Word) :
    ((aluResult .sub a b).toNat : Int) = ((a.toNat : Int) - b.toNat) % 2 ^ 32 := by
  simp only [aluResult, BitVec.toNat_sub]
  omega

/-- Settles O8: each operation by the library's reading of it on integers or on bits. -/
theorem aluNineOperations : Obligations.AluNineOperations := fun a b =>
  ⟨rfl, BitVec.toNat_add a b, toNat_aluResult_sub a b, fun _ _ => BitVec.getLsbD_or,
    fun _ _ => BitVec.getLsbD_and, fun _ _ => BitVec.getLsbD_xor, toNat_aluResult_sll a b,
    toNat_aluResult_srl a b, toInt_aluResult_sra a b, by decide⟩

/-- A shift depends on operand B through the shift amount alone. -/
theorem aluResult_shift_congr {op : AluOp} (h : op = .sll ∨ op = .srl ∨ op = .sra) (a : Word)
    {b b' : Word} (hb : shiftAmount b = shiftAmount b') : aluResult op a b = aluResult op a b' := by
  obtain rfl | rfl | rfl := h <;> simp only [aluResult, hb]

theorem aluResult_shift_zero {op : AluOp} (h : op = .sll ∨ op = .srl ∨ op = .sra) (a : Word)
    {b : Word} (hb : shiftAmount b = 0) : aluResult op a b = a := by
  obtain rfl | rfl | rfl := h <;> simp [aluResult, hb]

/-- Settles O9: the shift amount is a function of the low 5 bits. -/
theorem shiftAmountIsMasked : Obligations.ShiftAmountIsMasked := fun _ a _ _ hop =>
  ⟨fun hb => aluResult_shift_congr hop a (congrArg BitVec.toNat hb),
    fun hb => aluResult_shift_zero hop a (congrArg BitVec.toNat hb)⟩

/-! ## The set-less-than operations and the comparator -/

theorem aluResult_slt (a b : Word) :
    aluResult .slt a b = if a.toInt < b.toInt then 1#32 else 0#32 := by
  simp only [aluResult, BitVec.slt_iff_toInt_lt]

theorem aluResult_sltu (a b : Word) :
    aluResult .sltu a b = if a.toNat < b.toNat then 1#32 else 0#32 := by
  simp only [aluResult, BitVec.ult_iff_toNat_lt]

theorem compareWords_equal {u : Bool} {a b : Word} : (compareWords u a b).equal = true ↔ a = b :=
  decide_eq_true_iff

/-- Settles O12: the library's reading of the two comparisons on integers. -/
theorem comparatorEqualAndLess : Obligations.ComparatorEqualAndLess :=
  ⟨fun _ _ => ⟨fun _ => compareWords_equal, BitVec.ult_iff_toNat_lt, BitVec.slt_iff_toInt_lt⟩,
    by decide⟩

/-! ## The overflow output -/

/-- R145's sign test of a sum is the library's signed overflow, that the exact sum is out of range. -/
theorem overflow_add (a b : Word) : (alu .add a b).overflow = a.saddOverflow b :=
  (BitVec.saddOverflow_eq a b).symm

theorem overflow_sub (a b : Word) : (alu .sub a b).overflow = a.ssubOverflow b := by
  rw [BitVec.ssubOverflow_eq]
  simp only [alu, overflow, aluResult]
  cases a.msb <;> cases b.msb <;> simp

/-- An exact sum is out of the signed range exactly when the word of the sum does not read as it: every
word's reading is in the range. -/
theorem saddOverflow_iff {n : Nat} {a b : BitVec n} :
    a.saddOverflow b = true ↔ (a + b).toInt ≠ a.toInt + b.toInt := by
  refine ⟨fun h heq => ?_, fun h => by_contra fun ho => h (BitVec.toInt_add_of_not_saddOverflow ho)⟩
  have hlt := BitVec.toInt_lt (x := a + b)
  have hle := BitVec.le_toInt (x := a + b)
  simp only [BitVec.saddOverflow, Bool.or_eq_true, decide_eq_true_iff] at h
  omega

theorem ssubOverflow_iff {n : Nat} {a b : BitVec n} :
    a.ssubOverflow b = true ↔ (a - b).toInt ≠ a.toInt - b.toInt := by
  refine ⟨fun h heq => ?_, fun h => by_contra fun ho => h (BitVec.toInt_sub_of_not_ssubOverflow ho)⟩
  have hlt := BitVec.toInt_lt (x := a - b)
  have hle := BitVec.le_toInt (x := a - b)
  simp only [BitVec.ssubOverflow, Bool.or_eq_true, decide_eq_true_iff] at h
  omega

theorem overflow_other {op : AluOp} (ha : op ≠ .add) (hs : op ≠ .sub) (a b : Word) :
    (alu op a b).overflow = false := by
  cases op
  case add => exact absurd rfl ha
  case sub => exact absurd rfl hs
  all_goals rfl

/-- Settles O11: R145's sign test, as the exact sum or difference leaving the signed range. -/
theorem aluOverflowIsSignedOverflow : Obligations.AluOverflowIsSignedOverflow := fun a b =>
  ⟨overflow_add a b ▸ saddOverflow_iff, overflow_sub a b ▸ ssubOverflow_iff,
    fun _ ha hs => overflow_other ha hs a b⟩

/-! ## The register file -/

theorem regRead_written {s : State} {r : RegIdx} (h0 : r ≠ 0) (hw : s.regWritten[r] = true) :
    s.regRead (some r) = .ok s.x[r] := by
  simp [State.regRead, State.regUnreadable, State.regValue, h0, hw]

/-- The register write that takes effect, register by register. -/
theorem regWrite_some_reg (s : State) {r : RegIdx} (h0 : r ≠ 0) (v : Word) (q : RegIdx) :
    (s.regWrite (some r) v true).x[q] = (if q = r then v else s.x[q]) ∧
      (s.regWrite (some r) v true).regWritten[q] = (if q = r then true else s.regWritten[q]) := by
  rw [regWrite_some s v h0]
  simp only [getElem_setReg, eq_comm (a := r), and_self]

theorem regWrite_some_frame (s : State) {r : RegIdx} (h0 : r ≠ 0) (v : Word) :
    s.regWrite (some r) v true =
      { s with
        x := (s.regWrite (some r) v true).x
        regWritten := (s.regWrite (some r) v true).regWritten } := by
  rw [regWrite_some s v h0]

/-- Settles O13: the read by whether the register is written, the write by whether it takes effect. -/
theorem registerFileReadsAndWrites : Obligations.RegisterFileReadsAndWrites := by
  intro s
  refine ⟨regRead_none s, rfl, fun r h0 => ?_, fun v => ⟨regWrite_none s v true, regWrite_zero s v true⟩,
    fun i v => regWrite_disabled s i v, fun r v h0 =>
      ⟨_, rfl, regWrite_some_frame s h0 v, regWrite_some_reg s h0 v⟩⟩
  split
  · exact regRead_written h0 ‹_›
  · next hw =>
    rw [regRead_unwritten h0 (Bool.eq_false_of_not_eq_true hw)]
    cases s.cfg.uninitReg <;> rfl

/-! ## The decoder block and the meanings -/

/-- The set-less-than instructions are those whose bundle selects a set-less-than operation. -/
theorem isSlt_iff_aluOp {i : Instr} :
    isSlt i = true ↔ (bundleOf i).aluOp = .slt ∨ (bundleOf i).aluOp = .sltu := by
  cases i <;>
    simp [isSlt, bundleOf, bundleR, bundleI, bundleLoad, bundleStore, bundleBranch, bundleU,
      bundleJump, bundleSys]

/-- What a word with a bundle decodes to (log entry 10). -/
theorem decodeBundle_eq_some {p : SltParam} {w : Word} {b : ControlBundle} :
    decodeBundle p w = some b ↔
      ∃ i, decode w = some i ∧ ¬ (isSlt i = true ∧ p = .absent) ∧ bundleOf i = b := by
  simp only [decodeBundle_eq, Option.bind_eq_some_iff, bundleUnder, Option.ite_none_left_eq_some,
    Option.some.injEq]

/-- Settles O10: under absent a word's bundle is that of an instruction other than set-less-than. -/
theorem aluSetLessThan : Obligations.AluSetLessThan := by
  refine ⟨fun a b => ⟨aluResult_slt a b, aluResult_sltu a b⟩, fun w c hc => ?_⟩
  obtain ⟨i, -, hi, rfl⟩ := decodeBundle_eq_some.1 hc
  exact not_or.1 fun hop => hi ⟨isSlt_iff_aluOp.2 hop, rfl⟩

/-- The claims' set-less-than instructions are the model's. -/
theorem needsSlt_eq_isSlt (i : Instr) : needsSlt i = isSlt i := by cases i <;> rfl

/-- A word with a bundle decodes to an instruction that runs this bundle, the word standing for it in the
fault record. -/
theorem exec_eq_runBundle_of_word {s : State} {w : Word} {b : ControlBundle} {i : Instr}
    (hb : decodeBundle s.cfg.slt w = some b) (hi : decode w = some i) :
    exec i s = .next (runBundle w b s) := by
  obtain ⟨j, hj, hs, rfl⟩ := decodeBundle_eq_some.1 hb
  obtain rfl : i = j := Option.some.inj (hi.symm.trans hj)
  obtain ⟨rfl, -⟩ := spells_of_decode hi
  rw [exec_eq, if_neg hs]

/-- Settles O38: the decoder block is the decoder, then the instruction's own bundle. -/
theorem decoderBlockRunsTheInstruction : Obligations.DecoderBlockRunsTheInstruction := by
  intro s w
  simp only [needsSlt_eq_isSlt]
  exact ⟨decodeBundle_eq_none, fun _ _ => exec_eq_runBundle_of_word⟩

end Sys2Proof.Machine
end

section
/-! The step and its cycle (41_execution_cycle.md R170 to R182): a step fetches and runs what it fetched,
and is the datapath cycle; what a cycle that leaves the unit running has done, and where its next fetch
is. -/

namespace Sys2Proof.Machine

open Sys2Proof.Claims

/-! ## The fetch -/

theorem busRead_ok_of_readFault {s : State} {a : Word} {n : Width} (h : readFault s a n.bytes = none)
    (g : Bool) : s.busRead a n g = .ok (s.assemble a.toNat n g) := by
  rw [busRead_eq, h]; rfl

theorem busRead_error_of_readFault {s : State} {a : Word} {n : Width} {k : FaultKind}
    (h : readFault s a n.bytes = some k) (g : Bool) : s.busRead a n g = .error k := by
  rw [busRead_eq, h]; rfl

theorem nextPc_pc4 {s : State} (h : s.pcSelLatch = .pc4) : s.nextPc = s.pc + 4#32 := by
  rw [State.nextPc, h]

theorem nextPc_alu {s : State} (h : s.pcSelLatch = .alu) : s.nextPc = s.aluLatch := by
  rw [State.nextPc, h]

/-- A step whose fetch fails a check of the bus faults in Fetch, `pc` being there already (R171). -/
theorem step_of_readFault {s : State} {k : FaultKind} (hr : s.isRunning = true)
    (hk : readFault s s.nextPc 4 = some k) :
    step s = .next (faultedAs { s with pc := s.nextPc } k .fetch none (some s.nextPc) none) :=
  step_of_fetchFault hr (busRead_error_of_readFault (n := .word) hk false)

/-- Settles O32: the fetch is a word read at `nextPc`, whose checks are `readFault`. -/
theorem fetchMovesPcThenReads : Obligations.FetchMovesPcThenReads := fun _ =>
  ⟨nextPc_pc4, nextPc_alu, fun _ hr hk => step_of_readFault hr hk,
    fun hn => fetchStage_ok.2 ⟨rfl, busRead_ok_of_readFault (n := .word) hn false⟩⟩

/-- Settles O31: the word fetched is the one that the four bytes spell. -/
theorem stepRunsDecodedInstruction : Obligations.StepRunsDecodedInstruction := fun _ _ hr hn hd =>
  step_of_exec hr (busRead_ok_of_readFault (n := .word) hn false) hd

/-! ## The step as the datapath cycle, and the unit that runs none -/

/-- A fetched word with a bundle has that bundle run. -/
theorem step_of_bundle {s : State} {w : Word} {b : ControlBundle} (hr : s.isRunning = true)
    (hw : s.busRead s.nextPc .word false = .ok w) (hb : decodeBundle s.cfg.slt w = some b) :
    step s = .next (runBundle w b { s with pc := s.nextPc }) := by
  obtain ⟨i, hi, -, -⟩ := decodeBundle_eq_some.1 hb
  exact (step_of_exec hr hw hi).trans
    (exec_eq_runBundle_of_word (s := { s with pc := s.nextPc }) hb hi)

/-- The two cycles agree: in a fetch that faults, in a word without a bundle, and in a bundle that runs. -/
theorem step_eq_cycleState {s : State} (hr : s.isRunning = true) : step s = .next (cycleState s) := by
  cases hw : s.busRead s.nextPc .word false with
  | error k => rw [step_of_fetchFault hr hw, cycleState, fetchStage_error.2 ⟨k, hw, rfl⟩]
  | ok w =>
    rw [cycleState, fetchStage_ok.2 ⟨rfl, hw⟩]
    dsimp only
    cases hb : decodeBundle s.cfg.slt w with
    | none => exact step_of_no_bundle hr hw hb
    | some b => exact step_of_bundle hr hw hb

/-- Settles O39: `step_eq_cycleState`, which splits by what is fetched. -/
theorem stepIsTheDatapathCycle : Obligations.StepIsTheDatapathCycle := fun _ => step_eq_cycleState

theorem isRunning_iff {s : State} : s.isRunning = true ↔ s.power = true ∧ s.status = .running := by
  rw [State.isRunning, Bool.and_eq_true, decide_eq_true_iff]

theorem step_of_not_running {s : State} (h : s.isRunning = false) : step s = .fault .notRunning := by
  rw [step, h]; rfl

/-- The loop leaves a halted unit alone (60_exceptions.md R359). -/
theorem hostRun_of_not_running {s : State} (h : s.isRunning = false) : ∀ n, hostRun n s = s
  | 0 => rfl
  | n + 1 => by rw [hostRun, step_of_not_running h]

/-- Settles O37: a step asks `isRunning`, and is the datapath cycle of a running unit. -/
theorem haltedUnitRunsNoCycle : Obligations.HaltedUnitRunsNoCycle := fun _ =>
  ⟨isRunning_iff, fun h => ⟨step_of_not_running h, hostRun_of_not_running h⟩,
    fun h => ⟨_, step_eq_cycleState h⟩⟩

/-- Settles O49: `exec_eq` names the state answered. -/
theorem everyInstructionAnswersNext : Obligations.EveryInstructionAnswersNext := fun i s =>
  ⟨_, exec_eq i s⟩

/-! ## A cycle that leaves the unit running -/

/-- What a source register that can be read supplies: 0 for none (40_datapath_units.md R157). -/
def State.sourceValue (s : State) (i : Option RegIdx) : Word := i.elim 0#32 s.regValue

theorem regRead_eq_ok {s : State} {i : Option RegIdx} {v : Word} :
    s.regRead i = .ok v ↔ (∀ r, i = some r → Readable s r) ∧ v = s.sourceValue i := by
  cases i with
  | none => exact ⟨fun h => ⟨nofun, (Except.ok.inj h).symm⟩, fun ⟨_, h⟩ => h ▸ rfl⟩
  | some r =>
    simp only [Option.some.injEq, forall_eq', readable_iff]
    cases hu : s.regUnreadable r with
    | false => simp [regRead_ok hu, State.sourceValue, eq_comm (a := v)]
    | true => simp [regRead_fault hu]

/-- A cycle that leaves the unit running has read its registers and gone through Execute, Memory and
Writeback: it has met no fault and no EBREAK. -/
theorem runBundle_running {w : Word} {b : ControlBundle} {s : State}
    (h : (runBundle w b s).isRunning = true) :
    (∀ r, b.rs1 = some r ∨ b.rs2 = some r → Readable s r) ∧
    ∃ t m, memoryStage w b (s.sourceValue b.rs2)
        (executeStage b (s.sourceValue b.rs1) (s.sourceValue b.rs2) s) = .ok (t, m) ∧
      runBundle w b s = writebackStage b m t := by
  obtain ⟨hpow, hst⟩ := isRunning_iff.1 h
  obtain ⟨-, -, he⟩ | ⟨_, -, -, -, he⟩ | ⟨_, _, _, _, -, -, -, -, he⟩ | ⟨v1, v2, t, m, h1, h2, hm, he⟩ :=
    runBundle_cases w b s
  case inr.inr.inr =>
    obtain ⟨hr1, rfl⟩ := regRead_eq_ok.1 h1
    obtain ⟨hr2, rfl⟩ := regRead_eq_ok.1 h2
    rw [runBundle_power, Bool.and_eq_true, decide_eq_true_iff] at hpow
    obtain ⟨hps, hbrk⟩ := hpow
    rw [afterSys_eq hbrk] at hm
    refine ⟨fun r hr => hr.elim (hr1 r) (hr2 r), t, m, hm, he.trans (endOfCycle_running ?_)⟩
    rw [writebackStage_power, memoryStage_power hm, executeStage_power, hps]
  all_goals
    rw [he] at hst
    cases hst

/-- After a cycle that leaves the unit running the next fetch is where Execute has put it. -/
theorem runBundle_nextPc {w : Word} {b : ControlBundle} {s : State}
    (h : (runBundle w b s).isRunning = true) : (runBundle w b s).nextPc =
      (executeStage b (s.sourceValue b.rs1) (s.sourceValue b.rs2) s).nextPc := by
  obtain ⟨-, t, m, hm, he⟩ := runBundle_running h
  rw [he, memoryStage_frame hm]
  simp [State.nextPc]

/-- An instruction that leaves the unit running has run its bundle. -/
theorem exec_running {i : Instr} {s t : State} (hx : exec i s = .next t) (hr : t.isRunning = true) :
    t = runBundle (encode i) (bundleOf i) s := by
  rw [exec_eq] at hx
  cases hx
  split at hr
  · cases (isRunning_iff.1 hr).2
  · next hs => exact if_neg hs

/-- An instruction that leaves the unit running has read its sources. -/
theorem readable_of_running {i : Instr} {s t : State} (hx : exec i s = .next t)
    (hr : t.isRunning = true) {r : RegIdx} (hs : r ∈ sourcesOf i) : Readable s r := by
  obtain rfl := exec_running hx hr
  obtain ⟨hread, -⟩ := runBundle_running hr
  exact hread r (bundleOf_sources.2 hs)

/-! ## The next fetch address (R180) -/

theorem holds_eq_iff {u : Bool} {a b : Word} : BrCond.eq.holds (compareWords u a b) = true ↔ a = b :=
  compareWords_equal

theorem holds_ne_iff {u : Bool} {a b : Word} : BrCond.ne.holds (compareWords u a b) = true ↔ a ≠ b := by
  simp [BrCond.holds, ← compareWords_equal (u := u)]

theorem holds_lt_signed_iff {a b : Word} :
    BrCond.lt.holds (compareWords false a b) = true ↔ a.toInt < b.toInt := BitVec.slt_iff_toInt_lt

theorem holds_lt_unsigned_iff {a b : Word} :
    BrCond.lt.holds (compareWords true a b) = true ↔ a.toNat < b.toNat := BitVec.ult_iff_toNat_lt

/-- GE is the negation of LT: equal words are not ordered (40_datapath_units.md R152). -/
theorem holds_ge_iff {u : Bool} {a b : Word} : BrCond.ge.holds (compareWords u a b) = true ↔
    ¬ BrCond.lt.holds (compareWords u a b) = true := by
  have hirr : a = b → (compareWords u a b).lessThan = false := by
    rintro rfl
    cases u
    · exact decide_eq_false (lt_irrefl _)
    · exact decide_eq_false (lt_irrefl _)
  simpa [BrCond.holds, compareWords_equal] using hirr

/-- A branch goes to its target when its condition holds, else on (R152). -/
theorem executeStage_branch_nextPc (c : BrCond) (u : Bool) (rs1 rs2 : RegIdx) (off : BitVec 13)
    (v1 v2 : Word) (s : State) :
    (executeStage (bundleBranch c u rs1 rs2 off) v1 v2 s).nextPc =
      if c.holds (compareWords u v1 v2) = true then s.pc + off.signExtend 32 else s.pc + 4#32 := by
  split
  · next h => exact nextPc_alu (by simp [setBranchComp, bundleBranch, h])
  · next h => exact nextPc_pc4 (by simp [setBranchComp, bundleBranch, h])

/-- Execute puts the next fetch where R180's table says: a branch by its condition, a jump at its target, any
other instruction at `pc + 4`. -/
theorem executeStage_nextPc (i : Instr) (s : State) :
    (executeStage (bundleOf i) (s.sourceValue (bundleOf i).rs1) (s.sourceValue (bundleOf i).rs2) s).nextPc =
      nextFetch s i := by
  cases i
  case beq => exact (executeStage_branch_nextPc ..).trans (if_congr holds_eq_iff rfl rfl)
  case bne => exact (executeStage_branch_nextPc ..).trans (if_congr holds_ne_iff rfl rfl)
  case blt => exact (executeStage_branch_nextPc ..).trans (if_congr holds_lt_signed_iff rfl rfl)
  case bltu => exact (executeStage_branch_nextPc ..).trans (if_congr holds_lt_unsigned_iff rfl rfl)
  case bge =>
    refine (executeStage_branch_nextPc ..).trans ((if_congr holds_ge_iff rfl rfl).trans ?_)
    rw [ite_not]
    exact if_congr holds_lt_signed_iff rfl rfl
  case bgeu =>
    refine (executeStage_branch_nextPc ..).trans ((if_congr holds_ge_iff rfl rfl).trans ?_)
    rw [ite_not]
    exact if_congr holds_lt_unsigned_iff rfl rfl
  all_goals rfl

theorem exec_nextPc {i : Instr} {s t : State} (hx : exec i s = .next t) (hr : t.isRunning = true) :
    t.nextPc = nextFetch s i := by
  obtain rfl := exec_running hx hr
  rw [runBundle_nextPc hr, executeStage_nextPc]

/-- Settles O34: an instruction that leaves the unit running has gone through Execute, which chooses the
address. -/
theorem nextFetchAddress : Obligations.NextFetchAddress := fun _ _ _ _ hx hr => exec_nextPc hx hr

/-! ## Jumps, and a destination that is a source (R181, R182) -/

@[simp] theorem withDest_nextPc (s : State) (rd : RegIdx) (v : Word) :
    (withDest s rd v).nextPc = s.nextPc := by unfold withDest; split <;> rfl

theorem regValue_withDest (s : State) (rd : RegIdx) (v : Word) :
    (withDest s rd v).regValue rd = if rd = 0 then 0#32 else v := by
  split
  · next h => rw [h, regValue_zero]
  · next h => rw [← regWrite_eq_withDest, decide_eq_true h, regValue_regWrite s h, if_pos rfl]

/-- A cycle whose bundle jumps: the target is the base plus the immediate, the link is `pc + 4` (R260). -/
theorem runBundle_jump {a : ASel} {i : Option RegIdx} {s : State} {v : Word} (w : Word) (rd : RegIdx)
    (imm : Word) (hp : s.power = true) (hv : s.regRead i = .ok v) :
    runBundle w (bundleJump a rd i imm) s =
      withDest (goTo s (operandA a v s.pc + imm)) rd (s.pc + 4#32) := by
  rw [runBundle_register (b := bundleJump a rd i imm) w rfl rfl hv (regRead_none s)]
  refine (endOfCycle_running ?_).trans (regWrite_eq_withDest ..)
  simpa using hp

/-- JAL goes to `pc` plus its offset (R261). -/
theorem exec_jal {s : State} (hp : s.power = true) (rd : RegIdx) (off : BitVec 21) :
    exec (.jal rd off) s = .next (withDest (goTo s (s.pc + off.signExtend 32)) rd (s.pc + 4#32)) := by
  rw [exec_runs (by simp [isSlt])]
  exact congrArg _ (runBundle_jump (a := .pc) _ rd _ hp (regRead_none s))

/-- JALR goes to x[rs1] plus its offset (R262). -/
theorem exec_jalr {s : State} (hp : s.power = true) (rd : RegIdx) {rs1 : RegIdx}
    (hr : Readable s rs1) (off : BitVec 12) : exec (.jalr rd rs1 off) s =
      .next (withDest (goTo s (s.regValue rs1 + off.signExtend 32)) rd (s.pc + 4#32)) := by
  rw [exec_runs (by simp [isSlt])]
  exact congrArg _ (runBundle_jump (a := .reg) _ rd _ hp (regRead_ok (readable_iff.1 hr)))

/-- ADD adds its two sources (R201). -/
theorem exec_add {s : State} (hp : s.power = true) (rd : RegIdx) {rs1 rs2 : RegIdx}
    (h1 : Readable s rs1) (h2 : Readable s rs2) :
    exec (.add rd rs1 rs2) s = .next (aluWrites s rd (s.regValue rs1 + s.regValue rs2)) := by
  rw [exec_runs (by simp [isSlt])]
  exact congrArg _ (runBundle_alu (b := bundleR .add rd rs1 rs2) _ rfl rfl rfl rfl rfl rfl rfl hp
    (regRead_ok (readable_iff.1 h1)) (regRead_ok (readable_iff.1 h2)))

/-- A read at an address that is not a multiple of its width fails one of the first three checks (R58). -/
theorem readFault_misaligned {s : State} {a : Word} {n : Nat} (h : a.toNat % n ≠ 0) :
    readFault s a n = some (if AtConsole s.cfg a then .consoleRead
      else if a.toNat + n > s.cfg.memSize then .outOfRange else .failedPrecondition) := by
  simp only [readFault, if_pos h]
  split_ifs <;> rfl

/-- Settles O35: the jumps complete with the link written, and the next fetch is a read at a misaligned
address. -/
theorem misalignedTargetFaultsAtNextFetch : Obligations.MisalignedTargetFaultsAtNextFetch := by
  intro i s t hs hx hr hmis
  obtain ⟨hp, -⟩ := isRunning_iff.1 hs
  refine ⟨?_, ?_, ?_⟩
  · rintro rd off rfl
    obtain rfl := Host.Outcome.next.inj ((exec_jal hp rd off).symm.trans hx)
    exact regValue_withDest ..
  · rintro rd rs1 off rfl
    have hread : Readable s rs1 := readable_of_running hx hr (List.mem_singleton_self rs1)
    obtain rfl := Host.Outcome.next.inj ((exec_jalr hp rd hread off).symm.trans hx)
    exact regValue_withDest ..
  · rw [← exec_nextPc hx hr] at hmis ⊢
    rw [← exec_cfg hx]
    exact step_of_readFault hr (readFault_misaligned hmis)

/-- Settles O36: each instruction answers a state given by the values before it, from which the register's new
value is read. -/
theorem destinationMayBeASource : Obligations.DestinationMayBeASource := by
  intro r s h0 hp hr
  have hval : ∀ (u : State) (v : Word), (withDest u r v).regValue r = v := fun u v =>
    (regValue_withDest u r v).trans (if_neg h0)
  refine ⟨⟨_, exec_addi hp r hr (-1#12), (hval _ _).trans ?_⟩, ⟨_, exec_add hp r hr hr, hval _ _⟩,
    ⟨_, exec_jalr hp r hr 0#12, (withDest_nextPc ..).trans ?_, hval _ _⟩⟩
  · rw [sub_eq_add_neg]
    exact congrArg _ (by decide)
  · exact BitVec.add_zero _

end Sys2Proof.Machine
end

section
/-! The words of the R and I formats as numbers (30_encoding.md R93). -/

namespace Sys2Proof

/-- Appending puts the high part above the low part's bits. -/
theorem toNat_append_eq_add {m n : Nat} (x : BitVec m) (y : BitVec n) :
    (x ++ y).toNat = x.toNat * 2 ^ n + y.toNat := by
  rw [BitVec.toNat_append, ← Nat.shiftLeft_add_eq_or_of_lt y.isLt, Nat.shiftLeft_eq]

@[simp] theorem toNat_regBits (r : RegIdx) : (regBits r).toNat = r.val := rfl

theorem word_eq_ofNat {w : Word} {n : Nat} (h : w.toNat = n) : w = BitVec.ofNat 32 n := by
  rw [← h, BitVec.ofNat_toNat, BitVec.setWidth_eq]

theorem formR_eq_ofNat (f7 : BitVec 7) (rs2 rs1 : RegIdx) (f3 : BitVec 3) (rd : RegIdx)
    (op : BitVec 7) : formR f7 rs2 rs1 f3 rd op =
      BitVec.ofNat 32 (op.toNat + rd.val * 2 ^ 7 + f3.toNat * 2 ^ 12 + rs1.val * 2 ^ 15
        + rs2.val * 2 ^ 20 + f7.toNat * 2 ^ 25) := by
  refine word_eq_ofNat ?_
  simp only [formR, toNat_append_eq_add, toNat_regBits]
  omega

theorem formI_eq_ofNat (imm : BitVec 12) (rs1 : RegIdx) (f3 : BitVec 3) (rd : RegIdx)
    (op : BitVec 7) : formI imm rs1 f3 rd op =
      BitVec.ofNat 32 (op.toNat + rd.val * 2 ^ 7 + f3.toNat * 2 ^ 12 + rs1.val * 2 ^ 15
        + imm.toNat * 2 ^ 20) := by
  refine word_eq_ofNat ?_
  simp only [formI, toNat_append_eq_add, toNat_regBits]
  omega

end Sys2Proof
end

section
/-! What the statements about single instructions share: the words that the decoder rejects, the first source
that cannot be read, and the ALU result of classes R and I (42_alu_register.md R200, 43_alu_immediate_upper.md
R230). -/

namespace Sys2Proof.Machine

open Sys2Proof.Claims

/-! ## Rejected words -/

theorem illegal_of_decode_eq_none {w : Word} (h : decode w = none) : Illegal w :=
  ⟨h, fun _ => decodeBundle_eq_none.2 (.inl h), fun _ hr hb => step_of_illegal hr hb h⟩

/-- A word whose class does not accept its function fields is illegal. -/
theorem illegal_of_not_accepts {w : Word} {c : OpClass} (ho : opcodeField w = c.opcode) (he : c ≠ .e)
    (h : c.accepts (funct3Field w) (funct7Field w) = false) : Illegal w := by
  refine illegal_of_decode_eq_none (Option.isNone_iff_eq_none.1 ?_)
  rw [← Option.not_isSome, isSome_decode (classify_eq_some.2 ho) he, h, Bool.not_false]

/-- Class R has funct7 0000000, and 0100000 at the funct3 of ADD and SRL alone (30_encoding.md R104). -/
theorem illegal_of_funct7 {w : Word} (ho : opcodeField w = 0b0110011#7)
    (h7 : funct7Field w ≠ 0b0000000#7)
    (h3 : funct7Field w = 0b0100000#7 → funct3Field w ≠ 0b000#3 ∧ funct3Field w ≠ 0b101#3) :
    Illegal w := by
  refine illegal_of_not_accepts (c := .r) ho (by decide) (decide_eq_false ?_)
  rintro (h | ⟨h, h'⟩)
  · exact h7 h
  · exact not_or.2 (h3 h) h'

/-! ## The first source that cannot be read -/

/-- The sources of the claims are the register operands of the bundle, in the order in which they are read. -/
theorem sourcesOf_eq_bundleOf (i : Instr) :
    sourcesOf i = (bundleOf i).rs1.toList ++ (bundleOf i).rs2.toList := by
  cases i <;> rfl

/-- An instruction that reads a register is neither ECALL nor EBREAK. -/
theorem sys_eq_none_of_mem_sourcesOf {i : Instr} {r : RegIdx} (h : r ∈ sourcesOf i) :
    (bundleOf i).sys = .none := by
  cases i
  case ecall | ebreak => cases h
  all_goals rfl

/-- A cycle raises `UninitRegRead` for the first of its register operands that cannot be read. -/
theorem runBundle_firstUnreadable {b : ControlBundle} {s : State} {r : RegIdx} (w : Word)
    (hs : b.sys = .none) (h : (b.rs1.toList ++ b.rs2.toList).find? s.regUnreadable = some r) :
    runBundle w b s = s.decodeFault .uninitRegRead w (some r) := by
  have hfind : ∀ {i : Option RegIdx}, i.toList.find? s.regUnreadable = some r →
      i = some r ∧ s.regUnreadable r = true := fun hi =>
    ⟨Option.mem_toList.1 (List.mem_of_find?_eq_some hi), List.find?_some hi⟩
  rw [List.find?_append, Option.or_eq_some_iff] at h
  obtain h1 | ⟨h1, h2⟩ := h
  · obtain ⟨hr, hu⟩ := hfind h1
    exact runBundle_unreadable1 w hs hr hu
  · obtain ⟨hr, hu⟩ := hfind h2
    have hread : s.regRead b.rs1 = .ok (s.sourceValue b.rs1) := regRead_eq_ok.2
      ⟨fun q hq => readable_iff.2 (Bool.eq_false_of_not_eq_true
        (List.find?_eq_none.1 h1 q (Option.mem_toList.2 hq))), rfl⟩
    exact runBundle_unreadable2 w hs hread hr hu

/-- An instruction that exists raises `UninitRegRead` for its first source that cannot be read
(60_exceptions.md R348). -/
theorem exec_firstUnreadable {i : Instr} {s : State} {r : RegIdx}
    (hex : isSlt i = true → s.cfg.slt = .present)
    (h : (sourcesOf i).find? s.regUnreadable = some r) : exec i s = .next (uninitReg s i r) := by
  have hsys := sys_eq_none_of_mem_sourcesOf (List.mem_of_find?_eq_some h)
  rw [sourcesOf_eq_bundleOf] at h
  exact (exec_runs hex).trans (congrArg _ (runBundle_firstUnreadable _ hsys h))

/-- The claims' test of a source is the register file's. -/
theorem not_readable_eq_regUnreadable (s : State) :
    (fun r => !decide (Readable s r)) = s.regUnreadable := by
  funext r
  rw [Bool.eq_iff_iff, Bool.not_eq_true', decide_eq_false_iff_not, readable_iff, Bool.not_eq_false]

/-! ## The results of classes R and I -/

section Results
variable {i : Instr} {op : AluOp} {rd rs1 rs2 : RegIdx} {imm : Word} {s : State}

/-- A class-R instruction that exists writes the ALU result of its two sources (R200). -/
theorem exec_of_bundleR (hb : bundleOf i = bundleR op rd rs1 rs2)
    (hex : isSlt i = true → s.cfg.slt = .present) (hp : s.power = true) (h1 : Readable s rs1)
    (h2 : Readable s rs2) :
    exec i s = .next (aluWrites s rd (aluResult op (s.regValue rs1) (s.regValue rs2))) := by
  rw [exec_runs hex, hb]
  exact congrArg _ (runBundle_alu (b := bundleR op rd rs1 rs2) _ rfl rfl rfl rfl rfl rfl rfl hp
    (regRead_ok (readable_iff.1 h1)) (regRead_ok (readable_iff.1 h2)))

/-- A class-I instruction that exists writes the ALU result of its source and its immediate (R230). -/
theorem exec_of_bundleI (hb : bundleOf i = bundleI op rd rs1 imm)
    (hex : isSlt i = true → s.cfg.slt = .present) (hp : s.power = true) (h1 : Readable s rs1) :
    exec i s = .next (aluWrites s rd (aluResult op (s.regValue rs1) imm)) := by
  rw [exec_runs hex, hb]
  exact congrArg _ (runBundle_alu (b := bundleI op rd rs1 imm) _ rfl rfl rfl rfl rfl rfl rfl hp
    (regRead_ok (readable_iff.1 h1)) (regRead_none s))

end Results

/-- The shape `RegReg` from the format, the bundle and the operation of a class-R instruction that exists on
every machine. -/
theorem regReg_of_bundleR {mk : RegIdx → RegIdx → RegIdx → Instr} {f7 : BitVec 7} {f3 : BitVec 3}
    {op : AluOp} {f : Word → Word → Word}
    (hw : ∀ rd rs1 rs2, encode (mk rd rs1 rs2) = formR f7 rs2 rs1 f3 rd 0b0110011#7)
    (hb : ∀ rd rs1 rs2, bundleOf (mk rd rs1 rs2) = bundleR op rd rs1 rs2)
    (hop : op ≠ .slt ∧ op ≠ .sltu) (hf : ∀ a b, aluResult op a b = f a b) : RegReg mk f7 f3 f := by
  intro rd rs1 rs2 s
  have hex : isSlt (mk rd rs1 rs2) = true → s.cfg.slt = .present := fun h => by
    rw [isSlt_iff_aluOp, hb] at h
    exact (not_or.2 hop h).elim
  have hsrc : sourcesOf (mk rd rs1 rs2) = [rs1, rs2] := by rw [sourcesOf_eq_bundleOf, hb]; rfl
  refine ⟨(hw ..).trans (formR_eq_ofNat ..), fun hp h1 h2 => ?_, fun h1 => ?_, fun h1 h2 => ?_⟩
  · rw [exec_of_bundleR (hb ..) hex hp h1 h2, hf]
  · rw [readable_iff, Bool.not_eq_false] at h1
    exact exec_firstUnreadable hex (by rw [hsrc, List.find?_cons_of_pos h1])
  · rw [readable_iff] at h1
    rw [readable_iff, Bool.not_eq_false] at h2
    exact exec_firstUnreadable hex (by simp [hsrc, h1, h2])

end Sys2Proof.Machine
end

section
/-! The register-register instructions (42_alu_register.md R200 to R210), and SLTI and SLTIU
(43_alu_immediate_upper.md R232, R233). -/

namespace Sys2Proof.Machine

open Sys2Proof.Claims

/-! ## ADD and SUB -/

theorem aluResult_add_eq_ofNat (a b : Word) :
    aluResult .add a b = BitVec.ofNat 32 (a.toNat + b.toNat) := BitVec.add_def a b

/-- Subtraction may be read signed as well as unsigned. -/
theorem aluResult_sub_eq_ofInt (a b : Word) :
    aluResult .sub a b = BitVec.ofInt 32 (a.toInt - b.toInt) :=
  BitVec.eq_of_toInt_eq (by rw [aluResult, BitVec.toInt_sub, BitVec.toInt_ofInt])

/-- Settles O14: class R with the ALU's sum and difference; the decoder accepts no other funct7. -/
theorem addAndSub : Obligations.AddAndSub :=
  ⟨regReg_of_bundleR (fun _ _ _ => rfl) (fun _ _ _ => rfl) (by decide) aluResult_add_eq_ofNat,
    regReg_of_bundleR (fun _ _ _ => rfl) (fun _ _ _ => rfl) (by decide) aluResult_sub_eq_ofInt,
    fun _ ho _ h7 h7' => illegal_of_funct7 ho h7 fun h => absurd h h7'⟩

/-! ## XOR, OR and AND -/

/-- Settles O15: class R with the ALU's bitwise operations. -/
theorem xorOrAnd : Obligations.XorOrAnd := by
  refine ⟨regReg_of_bundleR (op := .xor) (fun _ _ _ => rfl) (fun _ _ _ => rfl) (by decide) fun _ _ => rfl,
    regReg_of_bundleR (op := .or) (fun _ _ _ => rfl) (fun _ _ _ => rfl) (by decide) fun _ _ => rfl,
    regReg_of_bundleR (op := .and) (fun _ _ _ => rfl) (fun _ _ _ => rfl) (by decide) fun _ _ => rfl,
    fun w ho h3 h7 => illegal_of_funct7 ho h7 fun _ => ?_⟩
  obtain h | h | h := h3 <;> simp [h]

/-! ## The shifts -/

theorem aluResult_sll_eq (a b : Word) : aluResult .sll a b = shiftLeft a (b.toNat % 32) :=
  BitVec.eq_of_toNat_eq (toNat_aluResult_sll a b)

theorem aluResult_srl_eq (a b : Word) : aluResult .srl a b = shiftRightLogical a (b.toNat % 32) :=
  word_eq_ofNat (toNat_aluResult_srl a b)

theorem aluResult_sra_eq (a b : Word) : aluResult .sra a b = shiftRightArith a (b.toNat % 32) := by
  rw [shiftRightArith, ← toInt_aluResult_sra, BitVec.ofInt_toInt]

/-- Settles O16: class R with the ALU's shifts, whose amount is the second source modulo 32. -/
theorem shiftsByRegister : Obligations.ShiftsByRegister := by
  refine ⟨regReg_of_bundleR (fun _ _ _ => rfl) (fun _ _ _ => rfl) (by decide) aluResult_sll_eq,
    regReg_of_bundleR (fun _ _ _ => rfl) (fun _ _ _ => rfl) (by decide) aluResult_srl_eq,
    regReg_of_bundleR (fun _ _ _ => rfl) (fun _ _ _ => rfl) (by decide) aluResult_sra_eq, ?_⟩
  rintro w ho (⟨h3, h7⟩ | ⟨-, h7, h7'⟩)
  · exact illegal_of_funct7 ho h7 fun _ => by simp [h3]
  · exact illegal_of_funct7 ho h7 fun h => absurd h h7'

/-! ## The set-less-than instructions -/

/-- An instruction that `P_SLT` = absent leaves out raises `InvalidArgument`, whatever its registers hold. -/
theorem exec_of_absent {i : Instr} {s : State} (hi : isSlt i = true) (ha : s.cfg.slt = .absent) :
    exec i s = .next (faultedAs s .invalidArgument .decode (some (encode i)) none none) := by
  rw [exec_eq, if_pos ⟨hi, ha⟩]
  rfl

/-- The word of a class-R instruction with funct7 0000000, its opcode and funct3 put together. -/
theorem formR_zero_eq_ofNat {f3 : BitVec 3} {base : Nat} (hbase : 0b0110011 + f3.toNat * 2 ^ 12 = base)
    (rd rs1 rs2 : RegIdx) : formR 0b0000000#7 rs2 rs1 f3 rd 0b0110011#7 =
      BitVec.ofNat 32 (base + rd.val * 2 ^ 7 + rs1.val * 2 ^ 15 + rs2.val * 2 ^ 20) := by
  rw [formR_eq_ofNat, ← hbase]
  exact congrArg _ (by simp only [BitVec.toNat_ofNat]; omega)

/-- The word of a class-I instruction, its opcode and funct3 put together. -/
theorem formI_aluImm_eq_ofNat {f3 : BitVec 3} {base : Nat}
    (hbase : 0b0010011 + f3.toNat * 2 ^ 12 = base) (rd rs1 : RegIdx) (imm : BitVec 12) :
    formI imm rs1 f3 rd 0b0010011#7 =
      BitVec.ofNat 32 (base + rd.val * 2 ^ 7 + rs1.val * 2 ^ 15 + imm.toNat * 2 ^ 20) := by
  rw [formI_eq_ofNat, ← hbase]
  exact congrArg _ (by simp only [BitVec.toNat_ofNat]; omega)

/-- SLTI compares with the value of the 12-bit immediate (R232). -/
theorem aluResult_slt_signExtend (a : Word) (imm : BitVec 12) :
    aluResult .slt a (imm.signExtend 32) = if a.toInt < imm.toInt then 1#32 else 0#32 := by
  rw [aluResult_slt, BitVec.toInt_signExtend_of_le (by decide)]

/-- Settles O17: under present the comparisons of classes R and I; under absent the gate before them; and the
first source that cannot be read. -/
theorem setLessThanInstructions : Obligations.SetLessThanInstructions := by
  refine ⟨fun rd rs1 rs2 => ⟨formR_zero_eq_ofNat rfl rd rs1 rs2, formR_zero_eq_ofNat rfl rd rs1 rs2⟩,
    fun rd rs1 imm => ⟨formI_aluImm_eq_ofNat rfl rd rs1 imm, formI_aluImm_eq_ofNat rfl rd rs1 imm⟩,
    fun w ho h3 h7 => illegal_of_funct7 ho h7 fun _ => ?_, fun rd rs1 rs2 s hpres hp h1 h2 => ⟨?_, ?_⟩,
    fun rd rs1 imm s hpres hp h1 => ⟨?_, ?_⟩, fun i s hi ha => ?_, fun i r s hi hpres hr => ?_⟩
  · obtain h | h := h3 <;> simp [h]
  · rw [exec_of_bundleR (op := .slt) rfl (fun _ => hpres) hp h1 h2, aluResult_slt]
  · rw [exec_of_bundleR (op := .sltu) rfl (fun _ => hpres) hp h1 h2, aluResult_sltu]
  · rw [exec_of_bundleI (op := .slt) rfl (fun _ => hpres) hp h1, aluResult_slt_signExtend]
  · rw [exec_of_bundleI (op := .sltu) rfl (fun _ => hpres) hp h1, aluResult_sltu]
    rfl
  · exact exec_of_absent ((needsSlt_eq_isSlt i).symm.trans hi) ha
  · exact exec_firstUnreadable (fun _ => hpres) (not_readable_eq_regUnreadable s ▸ hr)

end Sys2Proof.Machine
end

section
/-! What the register-immediate instructions share (43_alu_immediate_upper.md R230): the words of class I that
the decoder rejects, and the word, the result and the fault of the others. -/

namespace Sys2Proof.Machine

open Sys2Proof.Claims

/-! ## Rejected words -/

/-- Class I constrains imm[11:5] for the shifts alone: 0000000, or 0100000 at the funct3 of SRLI and SRAI
(30_encoding.md R107). -/
theorem illegal_of_shift_funct7 {w : Word} (ho : opcodeField w = 0b0010011#7)
    (h : (funct3Field w = 0b001#3 ∧ funct7Field w ≠ 0b0000000#7) ∨
      (funct3Field w = 0b101#3 ∧ funct7Field w ≠ 0b0000000#7 ∧ funct7Field w ≠ 0b0100000#7)) :
    Illegal w := by
  refine illegal_of_not_accepts (c := .i) ho (by decide) (decide_eq_false ?_)
  rintro ⟨hleft, hright⟩
  obtain ⟨h3, h7⟩ | ⟨h3, h7, h7'⟩ := h
  · exact h7 (hleft h3)
  · exact not_or.2 ⟨h7, h7'⟩ (hright h3)

/-! ## The result and the fault of class I -/

/-- An instruction that exists raises `UninitRegRead` for the source it reads first, if that cannot be read. -/
theorem exec_unreadableSource {i : Instr} {s : State} {r : RegIdx} {rs : List RegIdx}
    (hex : isSlt i = true → s.cfg.slt = .present) (hsrc : sourcesOf i = r :: rs)
    (hr : ¬ Readable s r) : exec i s = .next (uninitReg s i r) := by
  rw [readable_iff, Bool.not_eq_false] at hr
  exact exec_firstUnreadable hex (by rw [hsrc, List.find?_cons_of_pos hr])

/-- R230 for a class-I instruction that exists on every machine: the ALU result of x[rs1] and the immediate, or
the fault of rs1. -/
theorem exec_bundleI {i : Instr} {op : AluOp} {rd rs1 : RegIdx} {imm : Word}
    (hb : bundleOf i = bundleI op rd rs1 imm) (hslt : isSlt i = false) (s : State) :
    (s.power = true → Readable s rs1 →
      exec i s = .next (aluWrites s rd (aluResult op (s.regValue rs1) imm))) ∧
    (¬ Readable s rs1 → exec i s = .next (uninitReg s i rs1)) := by
  have hex : isSlt i = true → s.cfg.slt = .present := fun h => Bool.noConfusion (hslt.symm.trans h)
  have hsrc : sourcesOf i = [rs1] := by rw [sourcesOf_eq_bundleOf, hb]; rfl
  exact ⟨exec_of_bundleI hb hex, exec_unreadableSource hex hsrc⟩

/-- The shape `RegImm` from the format, the bundle and the operation of an instruction that exists on every
machine. -/
theorem regImm_of_bundleI {mk : RegIdx → RegIdx → BitVec 12 → Instr} {f3 : BitVec 3} {op : AluOp}
    {f : Word → Word → Word}
    (hw : ∀ rd rs1 imm, encode (mk rd rs1 imm) = formI imm rs1 f3 rd 0b0010011#7)
    (hb : ∀ rd rs1 imm, bundleOf (mk rd rs1 imm) = bundleI op rd rs1 (imm.signExtend 32))
    (hslt : ∀ rd rs1 imm, isSlt (mk rd rs1 imm) = false) (hf : ∀ a b, aluResult op a b = f a b) :
    RegImm mk f3 f := by
  intro rd rs1 imm s
  obtain ⟨hok, hfault⟩ := exec_bundleI (hb rd rs1 imm) (hslt ..) s
  rw [hf] at hok
  exact ⟨(hw ..).trans (formI_eq_ofNat ..), hok, hfault⟩

end Sys2Proof.Machine
end

section
/-! The register-immediate instructions but SLTI and SLTIU, and the upper-immediate instructions
(43_alu_immediate_upper.md R231, R234 to R241). -/

namespace Sys2Proof.Machine

open Sys2Proof.Claims

/-! ## ADDI, XORI, ORI and ANDI -/

/-- Settles O18: class I with the ALU's sum and its bitwise operations. -/
theorem immediateArithmeticAndLogic : Obligations.ImmediateArithmeticAndLogic :=
  ⟨regImm_of_bundleI (op := .add) (fun _ _ _ => rfl) (fun _ _ _ => rfl) (fun _ _ _ => rfl)
      aluResult_add_eq_ofNat,
    regImm_of_bundleI (op := .xor) (fun _ _ _ => rfl) (fun _ _ _ => rfl) (fun _ _ _ => rfl)
      fun _ _ => rfl,
    regImm_of_bundleI (op := .or) (fun _ _ _ => rfl) (fun _ _ _ => rfl) (fun _ _ _ => rfl)
      fun _ _ => rfl,
    regImm_of_bundleI (op := .and) (fun _ _ _ => rfl) (fun _ _ _ => rfl) (fun _ _ _ => rfl)
      fun _ _ => rfl⟩

/-! ## The shifts by an immediate -/

/-- The word of a shift by an immediate: imm[11:5] stands above the shift amount (30_encoding.md R107). -/
theorem formI_shift_eq_ofNat (top : BitVec 7) (shamt : BitVec 5) (rs1 : RegIdx) (f3 : BitVec 3)
    (rd : RegIdx) (op : BitVec 7) : formI (top ++ shamt) rs1 f3 rd op =
      BitVec.ofNat 32 (op.toNat + rd.val * 2 ^ 7 + f3.toNat * 2 ^ 12 + rs1.val * 2 ^ 15
        + shamt.toNat * 2 ^ 20 + top.toNat * 2 ^ 25) := by
  rw [formI_eq_ofNat, toNat_append_eq_add]
  exact congrArg _ (by omega)

/-- The ALU masks the extended immediate of a shift to the shift amount (R143), whatever stands above it. -/
theorem shiftAmount_shiftImm (top : BitVec 7) (shamt : BitVec 5) :
    shiftAmount ((top ++ shamt : BitVec 12).signExtend 32) = shamt.toNat := by
  refine congrArg BitVec.toNat (BitVec.eq_of_getLsbD_eq fun j hj => ?_)
  rw [BitVec.getLsbD_extractLsb', decide_eq_true hj, Bool.true_and, Nat.zero_add,
    getLsbD_signExtend_min (p := 11) _ (by omega), min_eq_left (by omega), BitVec.getLsbD_append, if_pos hj]

/-- The shape `ShiftImm` from the format, the bundle and the operation of the instruction, whose amount is
operand B modulo 32. -/
theorem shiftImm_of_bundleI {mk : RegIdx → RegIdx → BitVec 5 → Instr} {top : BitVec 7} {f3 : BitVec 3}
    {op : AluOp} {f : Word → Nat → Word}
    (hw : ∀ rd rs1 shamt, encode (mk rd rs1 shamt) = formI (top ++ shamt) rs1 f3 rd 0b0010011#7)
    (hb : ∀ rd rs1 shamt, bundleOf (mk rd rs1 shamt) =
      bundleI op rd rs1 ((top ++ shamt : BitVec 12).signExtend 32))
    (hslt : ∀ rd rs1 shamt, isSlt (mk rd rs1 shamt) = false)
    (hf : ∀ a b, aluResult op a b = f a (b.toNat % 32)) : ShiftImm mk top f3 f := by
  intro rd rs1 shamt s
  obtain ⟨hok, hfault⟩ := exec_bundleI (hb rd rs1 shamt) (hslt ..) s
  rw [hf, ← shiftAmount_eq, shiftAmount_shiftImm] at hok
  exact ⟨(hw ..).trans (formI_shift_eq_ofNat ..), hok, hfault⟩

/-- Settles O19: class I with the ALU's shifts, whose amount is the low 5 bits of the immediate. -/
theorem shiftsByImmediate : Obligations.ShiftsByImmediate :=
  ⟨shiftImm_of_bundleI (fun _ _ _ => rfl) (fun _ _ _ => rfl) (fun _ _ _ => rfl) aluResult_sll_eq,
    shiftImm_of_bundleI (fun _ _ _ => rfl) (fun _ _ _ => rfl) (fun _ _ _ => rfl) aluResult_srl_eq,
    shiftImm_of_bundleI (fun _ _ _ => rfl) (fun _ _ _ => rfl) (fun _ _ _ => rfl) aluResult_sra_eq,
    fun _ => illegal_of_shift_funct7⟩

/-! ## LUI and AUIPC -/

/-- The U-immediate in place above 12 zeros is its multiple of 2^12 (30_encoding.md R100). -/
theorem append_zeros_eq_ofNat (imm : BitVec 20) :
    (imm ++ 0#12 : Word) = BitVec.ofNat 32 (imm.toNat * 2 ^ 12) :=
  word_eq_ofNat (by simp only [toNat_append_eq_add, BitVec.toNat_ofNat]; omega)

theorem decode_of_uLui {w : Word} (ho : opcodeField w = OpClass.uLui.opcode) :
    decode w = some (.lui (rdField w) (rawU w)) := by rw [decode, classify_eq_some.2 ho]

theorem decode_of_uAuipc {w : Word} (ho : opcodeField w = OpClass.uAuipc.opcode) :
    decode w = some (.auipc (rdField w) (rawU w)) := by rw [decode, classify_eq_some.2 ho]

/-- AUIPC adds its immediate, in place above 12 zeros, to its own address (R241). -/
theorem exec_auipc {s : State} (hp : s.power = true) (rd : RegIdx) (imm : BitVec 20) :
    exec (.auipc rd imm) s = .next (aluWrites s rd (s.pc + (imm ++ 0#12))) := by
  rw [exec_runs (by simp [isSlt])]
  exact congrArg _ (runBundle_alu (b := bundleU .pc .add rd imm) _ rfl rfl rfl rfl rfl rfl rfl hp
    rfl rfl)

/-- Settles O20: both classes take every word, and their bundles read no register. -/
theorem luiAndAuipc : Obligations.LuiAndAuipc := by
  refine ⟨fun w => ⟨append_zeros_eq_ofNat (rawU w), decode_of_uLui, decode_of_uAuipc⟩,
    fun rd imm s hp => ?_⟩
  rw [← append_zeros_eq_ofNat]
  exact ⟨exec_lui hp rd imm, exec_auipc hp rd imm⟩

end Sys2Proof.Machine
end

section
/-! What the control transfers share (44_control_transfer.md R260, R263): the fetch at a target, the fault of a
second source, and the cycle of a branch. -/

namespace Sys2Proof.Machine

open Sys2Proof.Claims

/-! ## The fetch at a target (R182) -/

theorem fetchAtFaults_of_nextPc {t : State} {a : Word} (hr : t.isRunning = true) (ha : t.nextPc = a) :
    FetchAtFaults t a := by
  subst ha
  exact ⟨rfl, fun _ => step_of_readFault hr⟩

theorem fetchAtFaults_goTo {s : State} (hr : s.isRunning = true) (target : Word) :
    FetchAtFaults (goTo s target) target := fetchAtFaults_of_nextPc hr rfl

@[simp] theorem withDest_isRunning (s : State) (rd : RegIdx) (v : Word) :
    (withDest s rd v).isRunning = s.isRunning := by unfold withDest; split <;> rfl

/-- The link does not stand in the way of the fetch at a jump's target. -/
theorem fetchAtFaults_withDest_goTo {s : State} (hr : s.isRunning = true) (target : Word) (rd : RegIdx)
    (link : Word) : FetchAtFaults (withDest (goTo s target) rd link) target :=
  fetchAtFaults_of_nextPc ((withDest_isRunning ..).trans hr) (withDest_nextPc ..)

/-! ## Branches -/

/-- An instruction that exists raises `UninitRegRead` for its second source when only that cannot be read. -/
theorem exec_unreadableSecondSource {i : Instr} {s : State} {r1 r2 : RegIdx}
    (hex : isSlt i = true → s.cfg.slt = .present) (hsrc : sourcesOf i = [r1, r2]) (h1 : Readable s r1)
    (h2 : ¬ Readable s r2) : exec i s = .next (uninitReg s i r2) := by
  rw [readable_iff] at h1
  rw [readable_iff, Bool.not_eq_false] at h2
  exact exec_firstUnreadable hex (by simp [hsrc, h1, h2])

/-- A branch sets the latches and nothing else: the ALU has its target whether it is taken or not (R263). -/
theorem runBundle_branch {c : BrCond} {u : Bool} {rs1 rs2 : RegIdx} {off : BitVec 13} {s : State}
    (w : Word) (hp : s.power = true) (h1 : Readable s rs1) (h2 : Readable s rs2) :
    runBundle w (bundleBranch c u rs1 rs2 off) s =
      if c.holds (compareWords u (s.regValue rs1) (s.regValue rs2)) = true
      then goTo s (s.pc + off.signExtend 32) else goOn s (s.pc + off.signExtend 32) := by
  rw [runBundle_register (b := bundleBranch c u rs1 rs2 off) w rfl rfl
    (regRead_ok (readable_iff.1 h1)) (regRead_ok (readable_iff.1 h2)), endOfCycle_running (by simpa using hp)]
  dsimp only [writebackStage, executeStage, setBranchComp, bundleBranch]
  split <;> rfl

theorem decode_of_b {w : Word} (ho : opcodeField w = OpClass.b.opcode) : decode w = decodeBranch w := by
  rw [decode, classify_eq_some.2 ho]

/-- The shape `Branch` from the funct3 and the bundle of a branch, and what its condition says of the two
values. -/
theorem branch_of_bundleBranch {mk : RegIdx → RegIdx → BitVec 13 → Instr} {f3 : BitVec 3} {c : BrCond}
    {u : Bool} {cond : Word → Word → Prop}
    (hd : ∀ w, funct3Field w = f3 → decodeBranch w = some (mk (rs1Field w) (rs2Field w) (rawB w)))
    (hb : ∀ rs1 rs2 off, bundleOf (mk rs1 rs2 off) = bundleBranch c u rs1 rs2 off)
    (hc : ∀ a b, c.holds (compareWords u a b) = true ↔ cond a b) : Branch mk f3 cond := by
  refine ⟨fun w ho h3 => ⟨(decode_of_b ho).trans (hd w h3), rfl⟩, fun rs1 rs2 off s => ?_⟩
  have hex : isSlt (mk rs1 rs2 off) = true → s.cfg.slt = .present := fun h => by
    rw [isSlt_iff_aluOp, hb] at h
    exact absurd h (by simp [bundleBranch])
  have hsrc : sourcesOf (mk rs1 rs2 off) = [rs1, rs2] := by rw [sourcesOf_eq_bundleOf, hb]; rfl
  refine ⟨fun hp h1 h2 => ?_, exec_unreadableSource hex hsrc, exec_unreadableSecondSource hex hsrc⟩
  rw [exec_runs hex, hb, runBundle_branch _ hp h1 h2]
  refine ⟨fun hcond => ⟨?_, fun hr => fetchAtFaults_goTo hr _⟩, fun hcond => ⟨?_, nextPc_pc4 rfl⟩⟩
  · rw [if_pos ((hc ..).2 hcond)]
    rfl
  · rw [if_neg (mt (hc ..).1 hcond)]
    rfl

end Sys2Proof.Machine
end

section
/-! The control transfers: the jumps (44_control_transfer.md R260 to R262) and the branches (R263 to R269). -/

namespace Sys2Proof.Machine

open Sys2Proof.Claims

/-! ## JAL and JALR -/

theorem decode_of_jJal {w : Word} (ho : opcodeField w = OpClass.jJal.opcode) :
    decode w = some (.jal (rdField w) (rawJ w)) := by rw [decode, classify_eq_some.2 ho]

theorem decode_of_iJalr {w : Word} (ho : opcodeField w = OpClass.iJalr.opcode)
    (h3 : funct3Field w = 0b000#3) : decode w = some (.jalr (rdField w) (rs1Field w) (rawI w)) := by
  rw [decode, classify_eq_some.2 ho]
  exact if_pos h3

/-- Settles O21: the jumps write the link and go to the target as it was computed, where the next step
fetches. -/
theorem jalAndJalr : Obligations.JalAndJalr := by
  refine ⟨fun w ho => ⟨decode_of_jJal ho, rfl⟩, fun w ho h3 => ⟨decode_of_iJalr ho h3, rfl⟩,
    fun w ho h3 => ?_, fun rd off s hp => ?_, fun rd rs1 off s => ⟨fun hp h1 => ?_, ?_⟩⟩
  · exact illegal_of_not_accepts (c := .iJalr) ho (by decide) (decide_eq_false h3)
  · exact ⟨exec_jal hp rd off, fun hr => fetchAtFaults_withDest_goTo hr ..⟩
  · exact ⟨exec_jalr hp rd h1 off, fun hr => fetchAtFaults_withDest_goTo hr ..⟩
  · exact exec_unreadableSource (by simp [isSlt]) rfl

/-! ## BEQ and BNE -/

/-- Settles O22: BEQ and BNE are the branches on the comparator's `equal`. -/
theorem branchOnEquality : Obligations.BranchOnEquality :=
  ⟨branch_of_bundleBranch (fun _ h3 => by simp [decodeBranch, h3]) (fun _ _ _ => rfl)
      fun _ _ => holds_eq_iff,
    branch_of_bundleBranch (fun _ h3 => by simp [decodeBranch, h3]) (fun _ _ _ => rfl)
      fun _ _ => holds_ne_iff⟩

/-! ## BLT, BGE, BLTU and BGEU -/

theorem holds_ge_signed_iff {a b : Word} :
    BrCond.ge.holds (compareWords false a b) = true ↔ b.toInt ≤ a.toInt := by
  rw [holds_ge_iff, holds_lt_signed_iff, not_lt]

theorem holds_ge_unsigned_iff {a b : Word} :
    BrCond.ge.holds (compareWords true a b) = true ↔ b.toNat ≤ a.toNat := by
  rw [holds_ge_iff, holds_lt_unsigned_iff, not_lt]

/-- Class B has no branch at funct3 010 and 011 (30_encoding.md R110). -/
theorem illegal_of_branch_funct3 {w : Word} (ho : opcodeField w = 0b1100011#7)
    (h3 : funct3Field w = 0b010#3 ∨ funct3Field w = 0b011#3) : Illegal w := by
  refine illegal_of_not_accepts (c := .b) ho (by decide) (decide_eq_false ?_)
  rintro ⟨h2, h2'⟩
  exact h3.elim h2 h2'

/-- Settles O23: the four are the branches on the comparator's `lessThan`, signed or unsigned; the two other
funct3 values of the class are none. -/
theorem branchOnOrder : Obligations.BranchOnOrder :=
  ⟨branch_of_bundleBranch (fun _ h3 => by simp [decodeBranch, h3]) (fun _ _ _ => rfl)
      fun _ _ => holds_lt_signed_iff,
    branch_of_bundleBranch (fun _ h3 => by simp [decodeBranch, h3]) (fun _ _ _ => rfl)
      fun _ _ => holds_ge_signed_iff,
    branch_of_bundleBranch (fun _ h3 => by simp [decodeBranch, h3]) (fun _ _ _ => rfl)
      fun _ _ => holds_lt_unsigned_iff,
    branch_of_bundleBranch (fun _ h3 => by simp [decodeBranch, h3]) (fun _ _ _ => rfl)
      fun _ _ => holds_ge_unsigned_iff,
    fun _ => illegal_of_branch_funct3⟩

end Sys2Proof.Machine
end

section
/-! What the loads and the stores share (45_load_store.md R290, R296): the effective address, and the cycle of
each class, which completes or raises the first failing check of the bus. -/

namespace Sys2Proof.Machine

open Sys2Proof.Claims

/-- The address of a load or store: its base register plus its sign-extended offset (R290, R296). -/
def effectiveAddress (s : State) (rs1 : RegIdx) (off : BitVec 12) : Word :=
  s.regValue rs1 + off.signExtend 32

@[simp] theorem withDest_status (s : State) (rd : RegIdx) (v : Word) :
    (withDest s rd v).status = s.status := by unfold withDest; split <;> rfl

/-! ## The cycle of a load -/

section Load
variable {n : Width} {g : Bool} {rd rs1 : RegIdx} {off : BitVec 12} {s : State}

/-- A load whose checks all pass writes back what it has read, and goes on. -/
theorem runBundle_bundleLoad (w : Word) (h1 : Readable s rs1)
    (hf : readFault s (effectiveAddress s rs1 off) n.bytes = none) :
    runBundle w (bundleLoad n g rd rs1 off) s =
      endOfCycle (withDest (goOn s (effectiveAddress s rs1 off)) rd
        (s.assemble (effectiveAddress s rs1 off).toNat n g)) := by
  rw [runBundle_load (b := bundleLoad n g rd rs1 off) w rfl rfl rfl (regRead_ok (readable_iff.1 h1))
    (regRead_none s) (busRead_ok_of_readFault hf g)]
  exact congrArg endOfCycle (regWrite_eq_withDest ..)

/-- A load raises the first failing check of its read, at the address it has computed. -/
theorem runBundle_bundleLoad_fault (w : Word) (h1 : Readable s rs1) {k : FaultKind}
    (hf : readFault s (effectiveAddress s rs1 off) n.bytes = some k) :
    runBundle w (bundleLoad n g rd rs1 off) s =
      faultedAs (goOn s (effectiveAddress s rs1 off)) k .memory (some w)
        (some (effectiveAddress s rs1 off)) none :=
  runBundle_busFault (b := bundleLoad n g rd rs1 off) w rfl rfl (regRead_ok (readable_iff.1 h1))
    (regRead_none s) (.inl ⟨rfl, busRead_error_of_readFault
      (s := goOn s (effectiveAddress s rs1 off)) hf g⟩)

/-- The status a load ends in depends neither on its destination nor on its word. -/
theorem runBundle_bundleLoad_status (w w' : Word) (rd' : RegIdx) :
    (runBundle w (bundleLoad n g rd rs1 off) s).status =
      (runBundle w' (bundleLoad n g rd' rs1 off) s).status := by
  by_cases h1 : Readable s rs1
  · cases hf : readFault s (effectiveAddress s rs1 off) n.bytes with
    | none => simp [runBundle_bundleLoad _ h1 hf]
    | some k => rw [runBundle_bundleLoad_fault w h1 hf, runBundle_bundleLoad_fault w' h1 hf]; rfl
  · rw [readable_iff, Bool.not_eq_false] at h1
    rw [runBundle_unreadable1 w rfl rfl h1, runBundle_unreadable1 w' rfl rfl h1]
    rfl

end Load

/-! ## The cycle of a store -/

section Store
variable {n : Width} {rs1 rs2 : RegIdx} {off : BitVec 12} {s : State}

/-- A store ends in what its write leaves: the bytes written, or the console byte emitted. -/
theorem runBundle_bundleStore (w : Word) (hp : s.power = true) (h1 : Readable s rs1)
    (h2 : Readable s rs2) {t : State} (hb : (goOn s (effectiveAddress s rs1 off)).busWrite
      (effectiveAddress s rs1 off) n (s.regValue rs2) = .ok t) :
    runBundle w (bundleStore n rs1 rs2 off) s = t := by
  rw [runBundle_store (b := bundleStore n rs1 rs2 off) w rfl rfl rfl rfl
    (regRead_ok (readable_iff.1 h1)) (regRead_ok (readable_iff.1 h2)) hb]
  refine endOfCycle_running ?_
  obtain ⟨-, ⟨-, rfl⟩ | ⟨-, -, rfl⟩⟩ := busWrite_eq_ok.1 hb
  · exact hp
  · exact hp

/-- A store raises the fault of its write, at the address it has computed. -/
theorem runBundle_bundleStore_fault (w : Word) (h1 : Readable s rs1) (h2 : Readable s rs2)
    {k : FaultKind} (hb : (goOn s (effectiveAddress s rs1 off)).busWrite
      (effectiveAddress s rs1 off) n (s.regValue rs2) = .error k) :
    runBundle w (bundleStore n rs1 rs2 off) s =
      faultedAs (goOn s (effectiveAddress s rs1 off)) k .memory (some w)
        (some (effectiveAddress s rs1 off)) none :=
  runBundle_busFault (b := bundleStore n rs1 rs2 off) w rfl rfl (regRead_ok (readable_iff.1 h1))
    (regRead_ok (readable_iff.1 h2)) (.inr ⟨rfl, hb⟩)

end Store

/-! ## The two shapes -/

/-- An instruction that adds exists on every machine. -/
theorem present_of_aluOp_add {i : Instr} {s : State} (h : (bundleOf i).aluOp = .add) :
    isSlt i = true → s.cfg.slt = .present := fun hi => by
  rw [isSlt_iff_aluOp, h] at hi
  exact absurd hi (by decide)

/-- The shape `Load` from the format and the bundle of a load, and the value that its read assembles. -/
theorem load_of_bundleLoad {mk : RegIdx → RegIdx → BitVec 12 → Instr} {f3 : BitVec 3} {n : Width}
    {g : Bool} {value : State → Nat → Word}
    (hw : ∀ rd rs1 off, encode (mk rd rs1 off) = formI off rs1 f3 rd 0b0000011#7)
    (hb : ∀ rd rs1 off, bundleOf (mk rd rs1 off) = bundleLoad n g rd rs1 off)
    (hv : ∀ s a, s.assemble a n g = value s a) : Load mk f3 n.bytes value := by
  intro rd rs1 off s
  have hex : isSlt (mk rd rs1 off) = true → s.cfg.slt = .present :=
    present_of_aluOp_add (by rw [hb]; rfl)
  have hsrc : sourcesOf (mk rd rs1 off) = [rs1] := by rw [sourcesOf_eq_bundleOf, hb]; rfl
  refine ⟨(hw ..).trans (formI_eq_ofNat ..), fun hp h1 hf => ?_, exec_unreadableSource hex hsrc,
    fun k h1 hf => ?_⟩
  · rw [exec_runs hex, hb, runBundle_bundleLoad _ h1 hf, hv]
    exact congrArg _ (endOfCycle_running ((withDest_power ..).trans hp))
  · rw [exec_runs hex, hb]
    exact congrArg _ (runBundle_bundleLoad_fault _ h1 hf)

theorem decode_of_s {w : Word} (ho : opcodeField w = OpClass.s.opcode) : decode w = decodeStore w := by
  rw [decode, classify_eq_some.2 ho]

/-- The shape `Store` from the funct3 and the bundle of a store. -/
theorem store_of_bundleStore {mk : RegIdx → RegIdx → BitVec 12 → Instr} {f3 : BitVec 3} {n : Width}
    (hd : ∀ w, funct3Field w = f3 → decodeStore w = some (mk (rs1Field w) (rs2Field w) (rawS w)))
    (hb : ∀ rs1 rs2 off, bundleOf (mk rs1 rs2 off) = bundleStore n rs1 rs2 off) :
    Store mk f3 n.bytes := by
  refine ⟨fun w ho h3 => ⟨(decode_of_s ho).trans (hd w h3), rfl⟩, fun rs1 rs2 off s => ?_⟩
  have hex : isSlt (mk rs1 rs2 off) = true → s.cfg.slt = .present :=
    present_of_aluOp_add (by rw [hb]; rfl)
  have hsrc : sourcesOf (mk rs1 rs2 off) = [rs1, rs2] := by rw [sourcesOf_eq_bundleOf, hb]; rfl
  obtain ⟨hfault, hconsole, hmemory⟩ := busWriteChecksAndEffect
    (goOn s (effectiveAddress s rs1 off)) (effectiveAddress s rs1 off) n (s.regValue rs2)
  refine ⟨fun hp h1 h2 hf hcon => ?_, fun hp h1 h2 hf hcon => ?_, exec_unreadableSource hex hsrc,
    exec_unreadableSecondSource hex hsrc, fun k h1 h2 hf => ?_⟩
  · obtain ⟨t, hb', ht⟩ := hmemory hf hcon
    rw [exec_runs hex, hb, runBundle_bundleStore _ hp h1 h2 hb']
    exact ⟨t, rfl, ht⟩
  · rw [exec_runs hex, hb]
    exact congrArg _ (runBundle_bundleStore _ hp h1 h2 (hconsole hf hcon))
  · rw [exec_runs hex, hb]
    exact congrArg _ (runBundle_bundleStore_fault _ h1 h2 (hfault k hf))

end Sys2Proof.Machine
end

section
/-! The loads and the stores (45_load_store.md R291 to R301). -/

namespace Sys2Proof.Machine

open Sys2Proof.Claims

/-! ## The loads -/

/-- Class I-Load has no load at funct3 011, 110 and 111 (30_encoding.md R108). -/
theorem illegal_of_load_funct3 {w : Word} (ho : opcodeField w = 0b0000011#7)
    (h3 : funct3Field w = 0b011#3 ∨ funct3Field w = 0b110#3 ∨ funct3Field w = 0b111#3) :
    Illegal w := by
  refine illegal_of_not_accepts (c := .iLoad) ho (by decide) (decide_eq_false ?_)
  rintro ⟨h, h', h''⟩
  exact h3.elim h fun h3 => h3.elim h' h''

/-- Settles O24: each load is a bus read of its width and signedness; the three other funct3 values of the
class are none. -/
theorem loads : Obligations.Loads :=
  ⟨load_of_bundleLoad (n := .byte) (g := true) (fun _ _ _ => rfl) (fun _ _ _ => rfl) fun _ _ => rfl,
    load_of_bundleLoad (n := .half) (g := true) (fun _ _ _ => rfl) (fun _ _ _ => rfl) fun _ _ => rfl,
    load_of_bundleLoad (n := .word) (g := true) (fun _ _ _ => rfl) (fun _ _ _ => rfl) fun _ _ => rfl,
    load_of_bundleLoad (n := .byte) (g := false) (fun _ _ _ => rfl) (fun _ _ _ => rfl) fun _ _ => rfl,
    load_of_bundleLoad (n := .half) (g := false) (fun _ _ _ => rfl) (fun _ _ _ => rfl) fun _ _ => rfl,
    fun _ => illegal_of_load_funct3⟩

/-! ## The stores -/

/-- Class S has its stores at funct3 000 to 010 (30_encoding.md R109). -/
theorem illegal_of_store_funct3 {w : Word} (ho : opcodeField w = 0b0100011#7)
    (h3 : 3 ≤ (funct3Field w).toNat) : Illegal w := by
  refine illegal_of_not_accepts (c := .s) ho (by decide) (decide_eq_false ?_)
  rintro (h | h | h) <;> simp [h] at h3

/-- Settles O25: each store is a bus write of its width; the five other funct3 values of the class are none. -/
theorem stores : Obligations.Stores :=
  ⟨store_of_bundleStore (n := .byte) (fun _ h3 => by simp [decodeStore, h3]) fun _ _ _ => rfl,
    store_of_bundleStore (n := .half) (fun _ h3 => by simp [decodeStore, h3]) fun _ _ _ => rfl,
    store_of_bundleStore (n := .word) (fun _ h3 => by simp [decodeStore, h3]) fun _ _ _ => rfl,
    fun _ => illegal_of_store_funct3⟩

/-! ## A load to x0 -/

/-- Whatever its destination, a load runs the bundle of one width and signedness. -/
theorem exec_load {mk : RegIdx → RegIdx → BitVec 12 → Instr}
    (hmk : mk = .lb ∨ mk = .lh ∨ mk = .lw ∨ mk = .lbu ∨ mk = .lhu) :
    ∃ n g, ∀ rd rs1 off s, exec (mk rd rs1 off) s =
      .next (runBundle (encode (mk rd rs1 off)) (bundleLoad n g rd rs1 off) s) := by
  obtain rfl | rfl | rfl | rfl | rfl := hmk
  · exact ⟨.byte, true, fun _ _ _ _ => rfl⟩
  · exact ⟨.half, true, fun _ _ _ _ => rfl⟩
  · exact ⟨.word, true, fun _ _ _ _ => rfl⟩
  · exact ⟨.byte, false, fun _ _ _ _ => rfl⟩
  · exact ⟨.half, false, fun _ _ _ _ => rfl⟩

/-- A load to x0 leaves the registers and memory alone. -/
theorem runBundle_bundleLoad_zero (n : Width) (g : Bool) (rs1 : RegIdx) (off : BitVec 12) (w : Word)
    (s : State) : (runBundle w (bundleLoad n g 0 rs1 off) s).x = s.x ∧
      (runBundle w (bundleLoad n g 0 rs1 off) s).regWritten = s.regWritten ∧
      (runBundle w (bundleLoad n g 0 rs1 off) s).mem = s.mem := by
  have hrd : ∀ r : RegIdx, (bundleLoad n g 0 rs1 off).rd ≠ some r ∨ r = 0 := fun r => by
    by_cases h : r = 0
    · exact .inr h
    · exact .inl fun he => h (Option.some.inj he).symm
  have hreg := fun r => runBundle_reg (hrd r) w s
  obtain ⟨hmem, -⟩ := runBundle_no_write (b := bundleLoad n g 0 rs1 off) (by simp [bundleLoad]) w s
  exact ⟨Vector.ext fun i hi => (hreg ⟨i, hi⟩).1, Vector.ext fun i hi => (hreg ⟨i, hi⟩).2, hmem⟩

/-- Settles O26: the status of a load does not depend on its destination, and x0 is not written. -/
theorem loadToZeroStillReads : Obligations.LoadToZeroStillReads := by
  intro mk hmk rd rs1 off s t ht
  obtain ⟨n, g, hexec⟩ := exec_load hmk
  rw [hexec] at ht
  cases ht
  exact ⟨_, hexec .., runBundle_bundleLoad_status .., runBundle_bundleLoad_zero ..⟩

end Sys2Proof.Machine
end

section
/-! The instructions of classes Fence and E (46_system.md R320 to R323): FENCE, ECALL, EBREAK, and the words of
their opcodes that are none of them. -/

namespace Sys2Proof.Machine

open Sys2Proof.Claims

/-! ## The cycle of a bundle without selectors (40_datapath_units.md R150) -/

/-- A cycle of class Fence or E that raises no `EnvCall` goes on at `pc + 4`; EBREAK's is the last one. -/
theorem runBundle_bundleSys {k : Sys} {s : State} (w : Word)
    (hk : ¬ (k = .ecall ∧ s.cfg.ecall = .fault)) :
    runBundle w (bundleSys k) s = endOfCycle (afterSys (bundleSys k) (goOn s 0#32)) := by
  have hsys : sysPhase w (bundleSys k) s = .ok (afterSys (bundleSys k) s) :=
    (sysPhase_cases w (bundleSys k) s).elim (fun ⟨hs, hc, _⟩ => absurd ⟨hs, hc⟩ hk) And.right
  have hread : readPhase w (bundleSys k) (afterSys (bundleSys k) s) = .ok (0#32, 0#32) :=
    readPhase_ok.2 ⟨regRead_none _, regRead_none _⟩
  simp only [runBundle, hsys, hread]
  rfl

/-- Only EBREAK stops the unit: after FENCE, and after ECALL under nop, nothing but the latches has changed. -/
theorem runBundle_bundleSys_running {k : Sys} {s : State} (w : Word)
    (hk : ¬ (k = .ecall ∧ s.cfg.ecall = .fault)) (he : k ≠ .ebreak) (hp : s.power = true) :
    runBundle w (bundleSys k) s = goOn s 0#32 := by
  rw [runBundle_bundleSys w hk, afterSys_eq (b := bundleSys k) he]
  exact endOfCycle_running hp

/-! ## FENCE -/

theorem decode_of_fence {w : Word} (ho : opcodeField w = OpClass.fence.opcode)
    (h3 : funct3Field w = 0b000#3) :
    decode w = some (.fence (w.extractLsb' 15 17) (w.extractLsb' 7 5)) := by
  rw [decode, classify_eq_some.2 ho]
  exact if_pos h3

/-- Settles O27: the class has one funct3 value, and the bundle of FENCE selects nothing. -/
theorem fenceIsANoOp : Obligations.FenceIsANoOp := by
  refine ⟨fun w ho h3 => ⟨_, _, decode_of_fence ho h3⟩, fun w ho h3 => ?_, fun hi lo s hp => ⟨?_, ?_⟩⟩
  · exact illegal_of_not_accepts (c := .fence) ho (by decide) (decide_eq_false h3)
  · rw [exec_runs (by simp [isSlt])]
    exact congrArg _ (runBundle_bundleSys_running (k := .none) _ (by simp) (by simp) hp)
  · exact nextPc_pc4 rfl

/-! ## ECALL -/

theorem decode_eq_ecall {w : Word} : decode w = some .ecall ↔ w = 0x00000073#32 :=
  ⟨fun h => (spells_of_decode h).1.symm, fun h => h ▸ rfl⟩

/-- ECALL under `P_ECALL` = fault ends in the system phase, before anything is written (R321). -/
theorem runBundle_envCall {s : State} (w : Word) (hc : s.cfg.ecall = .fault) :
    runBundle w (bundleSys .ecall) s = s.decodeFault .envCall w none := by
  simp [runBundle, sysPhase, bundleSys, hc]

/-- Settles O28: one word, and one cycle for each setting of `P_ECALL`. -/
theorem ecallBothSettings : Obligations.EcallBothSettings := by
  have hexec : ∀ s, exec .ecall s = .next (runBundle (encode .ecall) (bundleSys .ecall) s) :=
    fun _ => exec_runs (by simp [isSlt])
  refine ⟨fun _ => decode_eq_ecall, fun s => ⟨fun hc => ?_, fun hc hp => ⟨?_, ?_⟩⟩⟩
  · exact (hexec s).trans (congrArg _ (runBundle_envCall _ hc))
  · exact (hexec s).trans
      (congrArg _ (runBundle_bundleSys_running _ (by simp [hc]) (by simp) hp))
  · exact nextPc_pc4 rfl

/-! ## EBREAK -/

theorem decode_eq_ebreak {w : Word} : decode w = some .ebreak ↔ w = 0x00100073#32 :=
  ⟨fun h => (spells_of_decode h).1.symm, fun h => h ▸ rfl⟩

/-- EBREAK completes its cycle with `power` cleared, which the end of the cycle takes for the halt (R322). -/
theorem runBundle_ebreak (w : Word) (s : State) : runBundle w (bundleSys .ebreak) s =
    { goOn s 0#32 with power := false, status := .haltedEbreak } := by
  rw [runBundle_bundleSys w (by simp), endOfCycle_off (by simp [bundleSys])]
  simp [afterSys, bundleSys]

/-- Settles O29: one word; its cycle ends halted, and the loop leaves a halted unit alone. -/
theorem ebreakHalts : Obligations.EbreakHalts := by
  refine ⟨fun _ => decode_eq_ebreak, fun s => ⟨?_, hostRun_of_not_running rfl⟩⟩
  exact (exec_runs (by simp [isSlt])).trans (congrArg _ (runBundle_ebreak _ s))

/-! ## The other words of opcode 1110011 -/

theorem decode_of_e {w : Word} (ho : opcodeField w = OpClass.e.opcode) : decode w = decodeSystem w := by
  rw [decode, classify_eq_some.2 ho]

/-- Settles O30: class E has two words, so the decoder rejects every other one of its opcode. -/
theorem otherSystemWordsAreIllegal : Obligations.OtherSystemWordsAreIllegal := by
  intro w ho hecall hebreak
  refine illegal_of_decode_eq_none ?_
  rw [decode_of_e ho]
  exact (if_neg hecall).trans (if_neg hebreak)

end Sys2Proof.Machine
end

section
/-! How a step ends: in a fault, whose state and record 60_exceptions.md R341 and R349 give, or in a completed
cycle; and with it the invariant of the unit. -/

namespace Sys2Proof.Machine

/-! ## The two ends of a cycle -/

/-- The kinds that the bus raises (20_memory.md R57 to R62). -/
abbrev FaultKind.isBus (k : FaultKind) : Prop :=
  k = .outOfRange ∨ k = .failedPrecondition ∨ k = .consoleRead ∨ k = .uninitMemRead

theorem FaultKind.isBus.ne_invalidArgument {k : FaultKind} (h : k.isBus) : k ≠ .invalidArgument := by
  rintro rfl
  revert h
  decide

theorem FaultKind.isBus.ne_uninitRegRead {k : FaultKind} (h : k.isBus) : k ≠ .uninitRegRead := by
  rintro rfl
  revert h
  decide

theorem isBus_of_busRead {s : State} {a : Word} {n : Width} {g : Bool} {k : FaultKind}
    (h : s.busRead a n g = .error k) : k.isBus := by
  obtain rfl | rfl | rfl | rfl := busRead_error h <;> decide

theorem isBus_of_busWrite {s : State} {a : Word} {n : Width} {v : Word} {k : FaultKind}
    (h : s.busWrite a n v = .error k) : k.isBus := by
  obtain rfl | rfl := busWrite_error h <;> decide

/-- The state that the Fetch stage leaves: `pc` has moved (41_execution_cycle.md R171). -/
abbrev State.afterFetch (s : State) : State := { s with pc := s.nextPc }

/-- The faults of a cycle that starts at `s` (R341): the kind, and the state in which the fault leaves the
unit. Only a fault in Memory comes after the latches have been set. -/
inductive FaultsFrom (s : State) : FaultKind → State → Prop where
  | fetch {k : FaultKind} (hk : k.isBus) :
      FaultsFrom s k (s.afterFetch.raise k .fetch none (some s.nextPc) none)
  | rejected {w : Word} (hw : s.busRead s.nextPc .word false = .ok w) :
      FaultsFrom s .invalidArgument (s.afterFetch.decodeFault .invalidArgument w none)
  | envCall {w : Word} (hw : s.busRead s.nextPc .word false = .ok w) :
      FaultsFrom s .envCall (s.afterFetch.decodeFault .envCall w none)
  | register {w : Word} (hw : s.busRead s.nextPc .word false = .ok w) {q : RegIdx} (hq : q ≠ 0) :
      FaultsFrom s .uninitRegRead (s.afterFetch.decodeFault .uninitRegRead w (some q))
  | memory {w : Word} (hw : s.busRead s.nextPc .word false = .ok w) {k : FaultKind} (hk : k.isBus)
      (l : PcSel) (a : Word) :
      FaultsFrom s k (State.raise { s.afterFetch with pcSelLatch := l, aluLatch := a } k .memory
        (some w) (some a) none)

/-- The cycle that leads from `s` to `t` raised no fault: EBREAK's is the last one (R176). -/
structure CompletesFrom (s t : State) : Prop where
  status : t.status = if t.power then s.status else .haltedEbreak
  fault : t.fault = s.fault

theorem FaultsFrom.status {s t : State} {k : FaultKind} (h : FaultsFrom s k t) :
    t.status = .faulted k := by
  cases h <;> rfl

theorem CompletesFrom.not_faulted {s t : State} (h : CompletesFrom s t) (hs : s.status = .running)
    (k : FaultKind) : t.status ≠ .faulted k := by
  rw [h.status, hs]
  split <;> nofun

/-! ## Which of them a cycle takes -/

theorem memoryStage_status {w v2 m : Word} {b : ControlBundle} {s t : State}
    (h : memoryStage w b v2 s = .ok (t, m)) : t.status = s.status := by rw [memoryStage_frame h]

theorem memoryStage_fault {w v2 m : Word} {b : ControlBundle} {s t : State}
    (h : memoryStage w b v2 s = .ok (t, m)) : t.fault = s.fault := by rw [memoryStage_frame h]

/-- EBREAK, which clears `power`, neither reads a register nor accesses memory: no fault finds `power` 0. -/
theorem bundleOf_sys_ne_ebreak {i : Instr} (h : (bundleOf i).rs1 ≠ none ∨ (bundleOf i).rs2 ≠ none ∨
    (bundleOf i).memWidth ≠ none) : (bundleOf i).sys ≠ .ebreak := by
  intro hs
  obtain rfl := bundleOf_sys_eq_ebreak.1 hs
  simp [bundleOf, bundleSys] at h

/-- The cycle of a fetched instruction ends in a fault other than `InvalidArgument`, or completes. -/
theorem runBundle_ends {s : State} {w : Word} (hw : s.busRead s.nextPc .word false = .ok w)
    (i : Instr) :
    (∃ k, k ≠ .invalidArgument ∧ FaultsFrom s k (runBundle w (bundleOf i) s.afterFetch)) ∨
      CompletesFrom s (runBundle w (bundleOf i) s.afterFetch) := by
  obtain ⟨-, -, he⟩ | ⟨q, hr, hq, -, he⟩ | ⟨v1, v2, k, n, -, -, hn, hb, he⟩ |
    ⟨v1, v2, t, m, -, -, hm, he⟩ := runBundle_cases w (bundleOf i) s.afterFetch
  · rw [he]
    exact .inl ⟨_, by decide, .envCall hw⟩
  · have hs : (bundleOf i).sys ≠ .ebreak :=
      bundleOf_sys_ne_ebreak (by obtain hr | hr := hr <;> simp [hr])
    rw [he, afterSys_eq hs]
    exact .inl ⟨_, by decide, .register hw hq⟩
  · have hs : (bundleOf i).sys ≠ .ebreak := bundleOf_sys_ne_ebreak (by simp [hn])
    have hk : k.isBus := hb.elim (fun h => isBus_of_busRead h.2) fun h => isBus_of_busWrite h.2
    rw [he, afterSys_eq hs]
    exact .inl ⟨k, hk.ne_invalidArgument, .memory hw hk _ _⟩
  · rw [he]
    exact .inr ⟨by simp [memoryStage_status hm], by simp [memoryStage_fault hm]⟩

/-- A step ends in a fault or in a completed cycle. -/
theorem step_ends {s t : State} (h : step s = .next t) :
    (∃ k, FaultsFrom s k t) ∨ CompletesFrom s t := by
  obtain ⟨hr, -⟩ := step_cases h
  cases hw : s.busRead s.nextPc .word false with
  | error k =>
    cases (step_of_fetchFault hr hw).symm.trans h
    exact .inl ⟨k, .fetch (isBus_of_busRead hw)⟩
  | ok w =>
    cases hb : decodeBundle s.cfg.slt w with
    | none =>
      cases (step_of_no_bundle hr hw hb).symm.trans h
      exact .inl ⟨_, .rejected hw⟩
    | some b =>
      cases (step_of_bundle hr hw hb).symm.trans h
      obtain ⟨i, -, -, rfl⟩ := decodeBundle_eq_some.1 hb
      exact (runBundle_ends hw i).imp_left fun ⟨k, _, hk⟩ => ⟨k, hk⟩

/-! ## The invariant of the unit -/

/-- The part of the invariant that speaks of memory (20_memory.md R50). -/
def State.MemoryInv (s : State) : Prop := Memory.wf s.mem ∧ ∀ c ∈ s.mem, c.1 < s.cfg.memSize

/-- A write that passes the bus's checks stays inside memory (20_memory.md R56). -/
theorem busWrite_memoryInv {s t : State} {a : Word} {n : Width} {v : Word}
    (hw : s.busWrite a n v = .ok t) (h : s.MemoryInv) : t.MemoryInv := by
  obtain ⟨hwf, hin⟩ := h
  refine ⟨busWrite_wf hwf hw, ?_⟩
  obtain ⟨-, ⟨-, rfl⟩ | ⟨-, hb, rfl⟩⟩ := busWrite_eq_ok.1 hw
  · exact hin
  · intro c hc
    obtain ⟨-, hlt⟩ | hc := mem_store hc
    · exact hlt.trans_le (beyondMemory_eq_false.1 hb)
    · exact hin c hc

theorem memoryStage_memoryInv {w v2 m : Word} {b : ControlBundle} {s t : State}
    (hm : memoryStage w b v2 s = .ok (t, m)) (h : s.MemoryInv) : t.MemoryInv := by
  obtain ⟨rfl, -⟩ | ⟨-, n, -, hw⟩ := memoryStage_ok hm
  · exact h
  · exact busWrite_memoryInv hw h

theorem runBundle_memoryInv {s : State} (h : s.MemoryInv) (w : Word) (b : ControlBundle) :
    (runBundle w b s).MemoryInv := by
  obtain ⟨-, -, he⟩ | ⟨_, -, -, -, he⟩ | ⟨_, _, _, _, -, -, -, -, he⟩ | ⟨_, _, _, _, -, -, hm, he⟩ :=
    runBundle_cases w b s
  case inr.inr.inr => simpa [State.MemoryInv, he] using memoryStage_memoryInv hm h
  all_goals rw [he]; exact h

theorem exec_memoryInv {i : Instr} {s t : State} (hx : exec i s = .next t) (h : s.MemoryInv) :
    t.MemoryInv := by
  rw [exec_eq] at hx
  cases hx
  split
  · exact h
  · exact runBundle_memoryInv h _ _

theorem step_memoryInv {s t : State} (ht : step s = .next t) (h : s.MemoryInv) : t.MemoryInv := by
  obtain ⟨-, ⟨k, -, rfl⟩ | ⟨w, -, -, rfl⟩ | ⟨w, i, -, -, hx⟩⟩ := step_cases ht
  · exact h
  · exact h
  · exact exec_memoryInv hx h

theorem step_regWritten_zero {s t : State} (h : step s = .next t) :
    t.regWritten[(0 : RegIdx)] = s.regWritten[(0 : RegIdx)] := by
  obtain ⟨-, ⟨k, -, rfl⟩ | ⟨w, -, -, rfl⟩ | ⟨w, i, -, -, hx⟩⟩ := step_cases h
  · rfl
  · rfl
  · exact (exec_reg hx (.inr rfl)).2

/-- A running unit that is consistent has no fault record. -/
theorem fault_eq_none_of_running {s : State} (hr : s.status = .running)
    (h : s.haltConsistent = true) : s.fault = none := by
  simp only [State.haltConsistent, hr, Bool.and_eq_true, Option.isNone_iff_eq_none] at h
  obtain ⟨-, hf⟩ := h
  exact hf

/-- A fault's record is of its kind at `pc`, with the stage and the fields of R341. -/
theorem FaultsFrom.haltConsistent {s t : State} {k : FaultKind} (h : FaultsFrom s k t)
    (hp : s.power = true) : t.haltConsistent = true := by
  cases h with
  | rejected | envCall => simp [State.haltConsistent, FaultRecord.wf, hp]
  | register _ hq => simp [State.haltConsistent, FaultRecord.wf, hp, hq]
  | fetch hk | memory _ hk =>
    obtain rfl | rfl | rfl | rfl := hk <;> simp [State.haltConsistent, FaultRecord.wf, hp]

theorem CompletesFrom.haltConsistent {s t : State} (h : CompletesFrom s t)
    (hs : s.status = .running) (hf : s.fault = none) : t.haltConsistent = true := by
  have hst := h.status
  cases hp : t.power <;> simp [State.haltConsistent, hst, hp, hs, h.fault, hf]

theorem step_haltConsistent {s t : State} (ht : step s = .next t) (h : s.haltConsistent = true) :
    t.haltConsistent = true := by
  obtain ⟨hp, hs⟩ := isRunning_iff.1 (step_cases ht).1
  obtain ⟨k, hk⟩ | hc := step_ends ht
  · exact hk.haltConsistent hp
  · exact hc.haltConsistent hs (fault_eq_none_of_running hs h)

/-- Settles O48: memory changes by checked writes alone, x0 is no destination, and `step_ends` says how
status, power and record agree. -/
theorem stepKeepsInvariant : Obligations.StepKeepsInvariant := by
  intro s t hs ht
  obtain ⟨hwf, hin⟩ := step_memoryInv ht ⟨hs.memory, hs.bounds⟩
  exact ⟨hwf, hin, (step_x_zero ht).trans hs.zero, (step_regWritten_zero ht).trans hs.zeroWritten,
    step_haltConsistent ht hs.halt⟩

/-! ## Rejected words, and what a fault leaves -/

/-- Settles O33: a word without a bundle ends the cycle in Decode, and the cycle of a bundle ends in no
`InvalidArgument`. -/
theorem rejectedWordRaisesInvalidArgument : Obligations.RejectedWordRaisesInvalidArgument := by
  intro s w hr hw
  refine ⟨step_of_no_bundle hr hw, fun hn t ht hst => ?_⟩
  obtain ⟨b, hb⟩ := Option.ne_none_iff_exists'.1 hn
  obtain ⟨i, -, -, rfl⟩ := decodeBundle_eq_some.1 hb
  cases (step_of_bundle hr hw hb).symm.trans ht
  obtain ⟨-, hs⟩ := isRunning_iff.1 hr
  obtain ⟨k, hk, hf⟩ | hc := runBundle_ends hw i
  · exact hk (Status.faulted.inj (hf.status.symm.trans hst))
  · exact hc.not_faulted hs _ hst

/-- Settles O54: by the stage of the fault with which the step ends. -/
theorem faultStateAndRecord : Obligations.FaultStateAndRecord := by
  intro s t k hr ht hst
  obtain ⟨hp, hs⟩ := isRunning_iff.1 hr
  obtain ⟨k', hk⟩ | hc := step_ends ht
  case inr => exact absurd hst (hc.not_faulted hs k)
  obtain rfl : k' = k := Status.faulted.inj (hk.status.symm.trans hst)
  cases hk with
  | fetch hk => exact ⟨_, rfl, by simpa [hp, hk.ne_uninitRegRead] using hk⟩
  | rejected hw | envCall hw | register hw => exact ⟨_, rfl, by simp [hp, hw]⟩
  | memory hw hk => exact ⟨_, rfl, by simpa [hp, hw, hk.ne_uninitRegRead] using hk⟩

end Sys2Proof.Machine
end

section
/-! The word of a well-formed instruction decodes to it, and the words that 95_test_vectors.md writes out
(30_encoding.md R93 to R114). -/

namespace Sys2Proof.Machine

/-! ## The decoder of each class -/

theorem decode_of_r {w : Word} (ho : opcodeField w = OpClass.r.opcode) : decode w = decodeR w := by
  rw [decode, classify_eq_some.2 ho]

theorem decode_of_i {w : Word} (ho : opcodeField w = OpClass.i.opcode) : decode w = decodeI w := by
  rw [decode, classify_eq_some.2 ho]

theorem decode_of_iLoad {w : Word} (ho : opcodeField w = OpClass.iLoad.opcode) :
    decode w = decodeLoad w := by
  rw [decode, classify_eq_some.2 ho]

/-! ## The word of a well-formed instruction -/

/-- The shift amount of a shift instruction's word (R107). -/
theorem shamt_formI_shift (top : BitVec 7) (shamt : BitVec 5) (rs1 : RegIdx) (f3 : BitVec 3)
    (rd : RegIdx) (op : BitVec 7) :
    (formI (top ++ shamt) rs1 f3 rd op).extractLsb' 20 5 = shamt := by
  rw [low_formI, BitVec.extractLsb'_append_eq_of_add_le (by omega)]
  simp

/-- `funct7Field_shift`, in the spelling of the class-I decoder. -/
theorem top_formI_shift (top : BitVec 7) (shamt : BitVec 5) (rs1 : RegIdx) (f3 : BitVec 3)
    (rd : RegIdx) (op : BitVec 7) :
    (formI (top ++ shamt) rs1 f3 rd op).extractLsb' 25 7 = top :=
  funct7Field_shift ..

/-- The opcode of the encoding selects the class's decoder, which reads back the fields of the format. -/
theorem decode_encode {i : Instr} (h : i.wf = true) : decode (encode i) = some i := by
  cases i with
  | add | sub | sll | slt | sltu | xor | srl | sra | or | and =>
    exact (decode_of_r (opcodeField_formR ..)).trans (by simp [decodeR])
  | addi | slti | sltiu | xori | ori | andi =>
    exact (decode_of_i (opcodeField_formI ..)).trans (by simp [decodeI])
  | slli | srli | srai =>
    exact (decode_of_i (opcodeField_formI ..)).trans
      (by simp [decodeI, top_formI_shift, shamt_formI_shift])
  | lui => exact (decode_of_uLui (opcodeField_formU ..)).trans (by simp)
  | auipc => exact (decode_of_uAuipc (opcodeField_formU ..)).trans (by simp)
  | jal => exact (decode_of_jJal (opcodeField_formJ ..)).trans (by simp [rawJ_formJ _ _ _ h])
  | jalr => exact (decode_of_iJalr (opcodeField_formI ..) (funct3Field_formI ..)).trans (by simp)
  | beq | bne | blt | bge | bltu | bgeu =>
    exact (decode_of_b (opcodeField_formB ..)).trans
      (by simp [decodeBranch, rawB_formB _ _ _ _ _ h])
  | lb | lh | lw | lbu | lhu =>
    exact (decode_of_iLoad (opcodeField_formI ..)).trans (by simp [decodeLoad])
  | sb | sh | sw =>
    exact (decode_of_s (opcodeField_formS ..)).trans (by simp [decodeStore])
  | fence =>
    exact (decode_of_fence (opcodeField_fence ..) (funct3Field_fence ..)).trans
      (by simp only [hi_fence, lo_fence])
  | ecall => exact decode_eq_ecall.2 rfl
  | ebreak => exact decode_eq_ebreak.2 rfl

/-- Settles O2: class by class, the decoder reads back the fields that the format has laid out. -/
theorem decodeOfEncodeGivesInstruction : Obligations.DecodeOfEncodeGivesInstruction :=
  fun _ => decode_encode

/-- Settles O1: the decoder computes on each word. -/
theorem decodeReadsWrittenOutWords : Obligations.DecodeReadsWrittenOutWords := by
  unfold Obligations.DecodeReadsWrittenOutWords
  decide

end Sys2Proof.Machine
end
